-- ==== Sys2Proof/Word.lean ====
section
/-!
DEFINITION. The word types of the Tezgar 740 and the fixed names its orders, frames and messages use.
Values the manual treats as bits (register contents, wrapping times, MACs, ids) are bit vectors;
everything else is a named alternative or a number.
-/

namespace Sys2Proof

/-- One byte of a frame, a message, an order block or a flash sector. -/
abbrev Byte := BitVec 8
/-- A 16-bit field: port numbers, sequence numbers, ether types. -/
abbrev Half := BitVec 16
/-- A 32-bit register, day number, image id or CRC. -/
abbrev Word := BitVec 32
/-- A MAC; its first transmitted byte is the most significant one. -/
abbrev Mac := BitVec 48
/-- The wrapping 32-bit millisecond time (R7, R167). -/
abbrev Ms := BitVec 32
/-- The 64-bit scheduler microsecond time (R66). -/
abbrev Us := BitVec 64
/-- A node number 0..7 (R123, R125). -/
abbrev Node := Fin 8
/-- A station index 0..127 (R81). -/
abbrev StaIx := Fin 128
/-- A profile number 0..15 (R109). -/
abbrev ProfIx := Fin 16

/-- The five ports (R28). -/
inductive PortId where
  | localPort | wan | radioA | radioB | mesh
deriving DecidableEq, Repr

/-- The two client radios, the only ports a station record names (R81). -/
inductive Radio where
  | a | b
deriving DecidableEq, Repr

/-- The six traffic classes, coded CTRL 0 .. UPDATE 5 (Table 11-1). -/
inductive TClass where
  | ctrl | game | live | normal | bulk | update
deriving DecidableEq, Repr

/-- The width of a host access to the register window (R1). -/
inductive Width where
  | byte | half | word
deriving DecidableEq, Repr

/-- The ports in the order R37 takes them. -/
def PortId.all : List PortId := [.localPort, .wan, .radioA, .radioB, .mesh]

/-- The classes in code order. -/
def TClass.all : List TClass := [.ctrl, .game, .live, .normal, .bulk, .update]

end Sys2Proof
end

