-- ==== Sys2Proof/Config.lean ====
section
/-!
DEFINITION. What the part fixes (the capacities and periods of the manual) and the one value the manual
leaves open.
-/

namespace Sys2Proof.Config

/-- Orders in flight, R12. -/
abbrev maxInFlight : Nat := 16
/-- Report hold queue, R21. -/
abbrev maxHold : Nat := 32
/-- Buffers of the frame pool, R40. -/
abbrev poolSize : Nat := 6144
/-- The reserve only CTRL and GAME may use, R40. -/
abbrev poolReserve : Nat := 256
/-- Held frames per station, R38. -/
abbrev maxHeldStation : Nat := 64
/-- Held frames over all stations, R38. -/
abbrev maxHeldAll : Nat := 512
/-- Listen-list entries, R139. -/
abbrev maxListen : Nat := 8
/-- Serve-list entries, R163. -/
abbrev maxServe : Nat := 32
/-- Chunks per image, R156 and R172. -/
abbrev maxChunks : Nat := 1918
/-- Moves of one evaluation, R116. -/
abbrev maxMoves : Nat := 6
/-- A counter of 32 bits saturates here (R43, R47, R81, R129). -/
abbrev counterMax : Nat := 4294967295
/-- Limit of one bus-master access in microseconds, R23. -/
abbrev busLimitUs : Nat := 2000
/-- Limit of an engine reset and of an erase in microseconds, R26 and R153. -/
abbrev longLimitUs : Nat := 500000
/-- Limit of a page program in microseconds, R153. -/
abbrev programLimitUs : Nat := 5000
/-- IDENT, Table 1-1. -/
abbrev ident : Word := 0x07400001#32
/-- Mesh control ether type before a SET_NODE, R32 and R123. -/
abbrev defaultEtherType : Half := 0x9A21#16

/-- FREE VALUE. The class of a handed flow whose class byte in the OFFER names no flow class (0 or above 5):
the manual states none (R63, R171). It is GAME, LIVE, NORMAL, BULK or UPDATE, numbered 0..4, and nothing
more is known of it. Assumption log entry 3. -/
opaque handedClass : Byte → Fin 5

/-- FREE VALUE. The way whose oldest trigger the Profile Engine takes next while triggers of several ways wait, for the
n-th trigger it takes: the Station Table's, the Schedule Clock's or an order's, numbered 0..2 (R115 and R119 let them
reach it in either order). Assumption log entry 15. -/
opaque wayTaken : Nat → Fin 3

end Sys2Proof.Config
end

