-- ==== Sys2Proof/Syntax.lean ====
section
/-!
DEFINITION. The commands of the Tezgar 740: one constructor per row of spec/opcode_table.json, in the table's
order. An order of the host carries no operand here: its parameters are the bytes of the order block that the
take read (R8, R10), and they stand in the orders-in-flight list. A step that belongs to one port, station,
peer or buffer names it; a step that something outside the part begins carries what the outside delivers.
-/

namespace Sys2Proof

/-- The commands and events of the part (opcode_table.json). -/
inductive Instr where
  /-- POWER_ON (R27). -/
  | powerOn
  /-- RUN (R7): CONTROL written with RUN and without RESET; `withNudge` is the NUDGE bit of the same write (R3). -/
  | run (withNudge : Bool)
  /-- RESET (R26): CONTROL written with RESET; its other bits are discarded (R3). -/
  | reset
  /-- NUDGE (R9): CONTROL written with NUDGE alone. -/
  | nudge
  /-- EVENTS_WRITE (R22): a 32-bit write of EVENTS. -/
  | eventsWrite (value : Word)
  /-- AREA_SIZE_WRITE (R2): a 32-bit write of AREA_SIZE. -/
  | areaSizeWrite (value : Word)
  /-- REGISTER_WRITE (R1): a write of any width at a byte offset of the register window. -/
  | registerWrite (offset : BitVec 5) (width : Width) (value : Word)
  /-- RESET_DONE (R26). -/
  | resetDone
  /-- SCAN_TIMER_EXPIRY (R9). -/
  | scanTimerExpiry
  /-- LOOK (R10). -/
  | look
  /-- TAKE_COMPLETE (R10): the TAKEN write on the bus completes. -/
  | takeComplete
  /-- UNKNOWN_ORDER (R13). -/
  | unknownOrder
  /-- ANSWER (R14). -/
  | answer
  /-- REPORT_ARRIVAL (R21). -/
  | reportArrival
  /-- PLACEMENT (R20). -/
  | placement
  /-- BUS_ACCESS_COMPLETE (R23): the access on the bus completes, with the bytes a read returned, or fails. -/
  | busAccessComplete (ok : Bool) (data : List Byte)
  /-- BUS_ACCESS_TIMEOUT (R24). -/
  | busAccessTimeout
  /-- NOP (R17). -/
  | nop
  /-- ENGINE_INFO (R17). -/
  | engineInfo
  /-- READ_TABLE (R18). -/
  | readTable
  /-- READ_MORE (R19). -/
  | readMore
  /-- SET_PORT (R29). -/
  | setPort
  /-- PORT_STATS (R44). -/
  | portStats
  /-- ACCEPTANCE (R32): the device of a port delivers a frame, on a radio with its signal sample in dBm. -/
  | acceptance (port : PortId) (frame : List Byte) (sample : Int)
  /-- END_RESOLUTION (R33). -/
  | endResolution (port : PortId)
  /-- FLOW_LOOKUP (R49). -/
  | flowLookup (port : PortId)
  /-- GATE_CHECK (R35). -/
  | gateCheck (port : PortId)
  /-- ACTIVITY_BYTE_COUNTING (R103). -/
  | activityByteCounting (port : PortId)
  /-- DESTINATION_RESOLUTION (R36). -/
  | destinationResolution (port : PortId)
  /-- ENQUEUE (R38): the next copy of the frame under ingress at the port. -/
  | enqueue (port : PortId)
  /-- RATE_NOTICE (R89). -/
  | rateNotice (radio : Radio) (mac : Mac) (rate : Half)
  /-- OVERHEARD_SAMPLE (R139). -/
  | overheardSample (mac : Mac) (sample : Int)
  /-- LINK_READY (R72). -/
  | linkReady (port : PortId)
  /-- TRANSMIT_OPPORTUNITY (R73). -/
  | transmitOpportunity (port : PortId)
  /-- TRANSMIT_COMPLETION (R74). -/
  | transmitCompletion (port : PortId)
  /-- ADDRESS_AGING (R42). -/
  | addressAging
  /-- FLOW_AGING (R51). -/
  | flowAging
  /-- SET_RULE (R60). -/
  | setRule
  /-- CLEAR_RULE (R61). -/
  | clearRule
  /-- SET_FLOW_TIMES (R62). -/
  | setFlowTimes
  /-- SET_QUIET (R65). -/
  | setQuiet
  /-- ADMIT_STATION (R86). -/
  | admitStation
  /-- DEPART_STATION (R93). -/
  | departStation
  /-- SET_STATION (R88). -/
  | setStation
  /-- GRANT_BONUS (R108). -/
  | grantBonus
  /-- SET_CLOCK (R101). -/
  | setClock
  /-- CLOCK_INFO (R102). -/
  | clockInfo
  /-- MINUTE_EVENT (R98). -/
  | minuteEvent
  /-- UNSET_MINUTE_EVENT (R99). -/
  | unsetMinuteEvent
  /-- ACTIVE_MINUTE_COUNT (R105). -/
  | activeMinuteCount
  /-- DAY_ROLLOVER (R106). -/
  | dayRollover
  /-- STATE_CHANGE_NOTICE (R117). -/
  | stateChangeNotice
  /-- ALLOWANCE_NOTICE (R117). -/
  | allowanceNotice
  /-- EVALUATION (R116). -/
  | evaluation
  /-- SET_PROFILE (R110). -/
  | setProfile
  /-- SET_PROGRAM (R113). -/
  | setProgram
  /-- CLEAR_PROFILE (R111). -/
  | clearProfile
  /-- PAUSE_PROFILE (R120). -/
  | pauseProfile
  /-- RESUME_PROFILE (R120). -/
  | resumeProfile
  /-- RESTART_PROFILE (R121). -/
  | restartProfile
  /-- RAISE_LOCK (R122). -/
  | raiseLock
  /-- SET_NODE (R123). -/
  | setNode
  /-- SET_PEER (R126). -/
  | setPeer
  /-- CLEAR_PEER (R127). -/
  | clearPeer
  /-- MESH_INFO (R134). -/
  | meshInfo
  /-- MESH_CONTROL_FRAME (R129). -/
  | meshControlFrame
  /-- BEACON_TIMER (R130). -/
  | beaconTimer
  /-- PEER_SILENT (R131). -/
  | peerSilent (node : Node)
  /-- PRESENCE_NOTICE (R131). -/
  | presenceNotice
  /-- SET_ROAMING (R135). -/
  | setRoaming
  /-- CHECK_EVENT (R136). -/
  | checkEvent
  /-- SIGNAL_QUERY (R139). -/
  | signalQuery
  /-- LISTEN_WINDOW_END (R139): the entry of this MAC and requester. -/
  | listenWindowEnd (mac : Mac) (node : Node)
  /-- SIGNAL_REPORT (R138). -/
  | signalReport
  /-- QUERY_DEADLINE (R138). -/
  | queryDeadline (station : StaIx)
  /-- OFFER (R142). -/
  | offer
  /-- ACCEPT (R143). -/
  | accept
  /-- DECLINE (R143). -/
  | decline
  /-- RETRY_WAIT_EXPIRY (R132). -/
  | retryWaitExpiry (station : StaIx)
  /-- MOVE_DEADLINE (R149). -/
  | moveDeadline (station : StaIx)
  /-- CONFIRM (R147). -/
  | confirm
  /-- SETTLE (R148). -/
  | settle
  /-- SETTLE_ACK (R147). -/
  | settleAck
  /-- SETTLE_WAIT_END (R145). -/
  | settleWaitEnd (station : StaIx)
  /-- GRACE_DEADLINE (R147). -/
  | graceDeadline (station : StaIx)
  /-- ARRIVAL_DEADLINE (R146). -/
  | arrivalDeadline (station : StaIx)
  /-- WITHDRAW (R146). -/
  | withdraw
  /-- WITHDRAW_ACK (R149). -/
  | withdrawAck
  /-- FORCE_HANDOFF (R150). -/
  | forceHandoff
  /-- SLOT_RECORD_CHECK (R155). -/
  | slotRecordCheck
  /-- FLASH_OPERATION_COMPLETE (R153): the bytes of a read are in, or a status read shows not busy. -/
  | flashOperationComplete (data : List Byte)
  /-- FLASH_TIMEOUT (R153). -/
  | flashTimeout
  /-- BEGIN_STAGING (R157). -/
  | beginStaging
  /-- STAGE_CHUNK (R159). -/
  | stageChunk
  /-- RESUME_STAGING (R160). -/
  | resumeStaging
  /-- CANCEL_STAGING (R161). -/
  | cancelStaging
  /-- FETCH_FROM_PEERS (R162). -/
  | fetchFromPeers
  /-- BATCH_DEADLINE (R162). -/
  | batchDeadline
  /-- SELECTION_RETRY (R162). -/
  | selectionRetry
  /-- CHUNK_DATA (R162). -/
  | chunkData
  /-- ASSEMBLY_TIMEOUT (R162). -/
  | assemblyTimeout (buffer : Fin 4)
  /-- CHUNK_NONE (R162). -/
  | chunkNone
  /-- CHUNK_WANT (R163). -/
  | chunkWant
  /-- SERVE_START (R163). -/
  | serveStart
  /-- SET_UPDATE_WINDOW (R164). -/
  | setUpdateWindow
  /-- REQUEST_INSTALL (R164). -/
  | requestInstall
  /-- HOLD_MINUTE_COUNT (R165). -/
  | holdMinuteCount
  /-- COMMIT_IMAGE (R165). -/
  | commitImage
  /-- CANCEL_INSTALL (R165). -/
  | cancelInstall
  /-- CONFIRM_IMAGE (R165). -/
  | confirmImage
  /-- READ_FLASH (R166). -/
  | readFlash
deriving DecidableEq, Repr

end Sys2Proof
end

