-- ==== Sys2Proof/WellFormed.lean ====
section
/-!
DEFINITION. Which operands a device or the host can deliver with a command. exec gives every command a meaning;
a command outside these checks is one no attached device produces.
-/

namespace Sys2Proof

/-- The operand checks: a 32-bit register access is aligned (R1), one bus access moves at most 256 bytes (R23) and one
flash read at most 4096 (R153). A signal sample is any whole number of dBm ("Signal levels"), which R90 clamps. -/
def Instr.wellFormed : Instr → Bool
  | .registerWrite off .word _ => off.toNat % 4 == 0
  | .registerWrite off .half _ => off.toNat % 2 == 0
  | .busAccessComplete _ data => data.length ≤ 256
  | .flashOperationComplete data => data.length ≤ 4096
  | _ => true

end Sys2Proof
end

