-- ==== Sys2Proof/Decode.lean ====
section
/-!
DEFINITION. The words of the command table. No row of spec/opcode_table.json has bits: every "fields" list is
empty and no row carries a "fixed" pattern. A command of this block is never spelt by a word, so the decoder
refuses every word.
-/

namespace Sys2Proof

/-- The command that a word of `nbits` bits spells by the table's bits: none, since no row gives bits. -/
def decodeTableWord (_nbits _w : Nat) : Option Instr := none

end Sys2Proof
end

