-- ==== Sys2Proof/Machine/State.lean ====
section
/-!
DEFINITION. The state of the Tezgar 740 as plain data: the register window and the exchange, the five ports
with their receive and transmit sides, and the state of each of the eleven blocks, with every field at its
power-on value in `State.reset`. Host memory and the flash device lie outside the part: what the part asks of
them stands in the two request lists, and what they answer comes with the command that ends an access.
-/

namespace Sys2Proof.Machine

open Sys2Proof

/-! ## How a step can stop -/

/-- Why the machine stops. No rule of the manual stops this part: what it calls a fault (an area fault, R24) is an
engine state and an event bit, and every command has an effect in every state. The type has no constructor. -/
inductive Fault where
deriving DecidableEq, Repr

/-- Why a command is given no meaning. -/
inductive Refusal where
  /-- Raised by an arm of exec whose command is not modelled yet; safe, because it claims nothing. No arm uses it. -/
  | notModelled (mnemonic : String)
deriving DecidableEq, Repr

/-! ## The exchange (chapter 1) -/

/-- The engine states of R5. -/
inductive Engine where
  | off | resetting | running | halted
deriving DecidableEq, Repr

/-- STATUS fault causes (R4, Table 11-2). -/
inductive FaultCause where
  | none | headerInvalid | chainPointerInvalid | blockInvalid | readError | writeError
deriving DecidableEq, Repr

/-- The event bits of R22, at the bit positions of Table 11-2. -/
inductive Event where
  | answered | reported | backlog | reportLoss | areaFault | resetDone
deriving DecidableEq, Repr

/-- The area in use (R2). -/
structure Area where
  base : BitVec 64
  size : Nat
deriving DecidableEq, Repr

/-- The blocks that own orders (R13). -/
inductive BlockId where
  | exu | frp | flc | stt | sck | pfe | mlc | hoc | ups | fls
deriving DecidableEq, Repr

/-- The status codes of Table 1-3. -/
inductive Status where
  | ok | again | refusedState | badParam | noRoom | notFound | duplicate | locked | sequence
  | unknownOrder | areaError | deferred | flashError | crcMismatch | cancelled | declined | timeout
deriving DecidableEq, Repr

/-- How far the owning block is with an order: not begun, begun and not ended, withdrawn by a CANCEL_STAGING,
or a CANCEL_STAGING after its join (R161). -/
inductive Progress where
  | fresh | working | cancelled | cancelNothing | cancelRefused | cancelErasing | cancelErased | cancelFailed
deriving DecidableEq, Repr

/-- An entry of the orders-in-flight list (R12). `area` is the area in use when it was taken (R25), `params` the
bytes of the block from byte 48 on (R167), `predecessor` the order R19 records for READ_MORE, `orphaned` the mark
of R25. `ended` is true from the moment the owning block has handed its answer over (R14). -/
structure Order where
  id : Nat
  offset : Nat
  kind : Byte
  params : List Byte
  owner : BlockId
  area : Area
  predecessor : Option Nat
  orphaned : Bool
  progress : Progress
  ended : Bool
deriving DecidableEq, Repr

/-- An answer a block hands to the Exchange Unit (R15). -/
structure Answer where
  order : Nat
  status : Status
  detail : Byte
  results : List Byte
deriving DecidableEq, Repr

/-- The report kinds of Table 1-4. -/
inductive ReportKind where
  | steer | handoffDone | handoffFailed | stationArrived | stationGone | reservationExpired | settleLost
  | allowanceSpent | profileState | profileCycle | ruleHit | peerChange | stagingComplete | chunkFailed
  | fetchStalled | holdEnd | recordInvalid | reverted | trialStart
deriving DecidableEq, Repr

/-- A report (section 1.7): kind, subject, millisecond time of its event and body of at most 48 bytes. -/
structure Report where
  kind : ReportKind
  subject : Nat
  time : Ms
  body : List Byte
deriving DecidableEq, Repr

/-- The classes of the bus-master arbiter (R23), highest first. -/
inductive BusClass where
  | answer | report | order | bulk
deriving DecidableEq, Repr

/-- Who waits for a bus-master access. `nobody` is a RELEASED write (R11) or an access whose requester is gone. -/
inductive BusOwner where
  | nobody
  | header
  | lookPointer | lookHead | lookRest | taken
  | answerArea | answerState (offset : Nat)
  | placePointer | placeState | placeBody | placeFilled
  | bulk (order : Nat)
deriving DecidableEq, Repr

/-- One access of at most 256 bytes (R23). A read carries no data. The byte of an answer's state write is fixed
when the access is started (R14). -/
structure Access where
  cls : BusClass
  write : Bool
  addr : BitVec 64
  len : Nat
  data : List Byte
  owner : BusOwner
deriving DecidableEq, Repr

/-- The cursor (R11): nowhere before the first valid RUN, the anchor, or a block with whether the part has
written it ANSWERED. -/
inductive Cursor where
  | nowhere | anchor | block (offset : Nat) (answered : Bool)
deriving DecidableEq, Repr

/-- The report position (R20). -/
inductive ReportPos where
  | nowhere | anchor | block (offset : Nat)
deriving DecidableEq, Repr

/-- Where a look stands (R10). -/
inductive Look where
  | idle | due | draining | pointer | head (offset : Nat)
  | rest (offset length : Nat) (got : List Byte) | taking (offset : Nat) (block : List Byte)
deriving DecidableEq, Repr

/-- Where the placement of reports stands (R20). -/
inductive Place where
  | idle | due | pointer | state (offset : Nat) | body (offset : Nat) | filled (offset : Nat)
deriving DecidableEq, Repr

/-- The read position of READ_MORE (R18, R19), with the order whose answer left it. -/
structure ReadPos where
  order : Nat
  table : Nat
  next : Nat
  remaining : Nat
deriving DecidableEq, Repr

/-- A READ_TABLE or READ_MORE under way: the entry being written, how many are still to write after it, how many
have been written, the destination of the entry, and the span (R18). -/
structure TableWork where
  order : Nat
  table : Nat
  index : Nat
  left : Nat
  written : Nat
  dest : Nat
  span : Nat
deriving DecidableEq, Repr

/-- The Exchange Unit. `runWait` is a RUN whose header read is under way, with its NUDGE bit; `arrivals` holds the
reports given and not yet at the hold queue; `msi` counts the interrupt messages sent (the model's record of
that output). -/
structure Exu where
  areaLow : Word
  areaHigh : Word
  areaSize : Word
  events : Word
  eventMask : Word
  engine : Engine
  fault : FaultCause
  area : Area
  runWait : Option Bool
  resetUntil : Us
  cursor : Cursor
  reportPos : ReportPos
  look : Look
  lookPending : Bool
  scanPeriod : Nat
  scanAt : Option Ms
  inFlight : List Order
  nextOrder : Nat
  answers : List Answer
  lastTaken : Option Nat
  arrivals : List Report
  hold : List Report
  blocked : Bool
  place : Place
  bus : Option (Access × Us)
  busWait : List Access
  readPos : Option ReadPos
  tableWork : Option TableWork
  msi : Nat
deriving DecidableEq, Repr

/-! ## Ports, frames and the scheduler (chapters 2 and 4) -/

/-- Table 2-1 without the enable flag. Quanta are LIVE, NORMAL, BULK, UPDATE; limits are in class order. -/
structure PortConfig where
  rate : Nat
  overhead : Nat
  share : Nat
  depth : Nat
  quanta : Vector Nat 4
  limits : Vector Nat 6
deriving DecidableEq, Repr

/-- The nine counters of one class of one port (R43). -/
structure ClassStats where
  framesSent : Nat
  bytesSent : Nat
  length : Nat
  unknownSource : Nat
  gate : Nat
  queue : Nat
  pool : Nat
  notHere : Nat
  hold : Nat
deriving DecidableEq, Repr

/-- A queued copy (R67); its length is that of its frame, and it holds one buffer of the pool. -/
structure Copy where
  frame : List Byte
  cls : TClass
  station : Option StaIx
  hop : Option Node
  broadcast : Bool
  rate : Nat
  cost : Nat
deriving DecidableEq, Repr

/-- The on-link frame with the next-hop MAC its transmit request carried (R74). -/
structure OnLink where
  copy : Copy
  hopMac : Option Mac
deriving DecidableEq, Repr

/-- The transmit states of R72. -/
inductive Tx where
  | notReady | ready | sending
deriving DecidableEq, Repr

/-- The states of a station record (R83). -/
inductive StaState where
  | free | active | watched | offering | moving | withdrawing | left | reserved
deriving DecidableEq, Repr

/-- A copy waiting for stage 7 (R37, R38). -/
structure Pending where
  port : PortId
  station : Option StaIx
  hop : Option Node
  broadcast : Bool
deriving DecidableEq, Repr

/-- The stage of ingress a frame waits for (Table 2-2). -/
inductive Stage where
  | ends | flow | gate | activity | destination | enqueue
deriving DecidableEq, Repr

/-- A frame under ingress in a port's receive store (R31), with what its stages have found (R33): the source
station, the destination station with its state at stage 2, the port of the address entry, the class and LISTED
flag, whether only the LOCAL copy may go on (R35), and the copies still to enqueue. -/
structure Ingress where
  stage : Stage
  frame : List Byte
  sample : Int
  source : Option StaIx
  dest : Option (StaIx × StaState)
  entry : Option PortId
  cls : TClass
  listed : Bool
  localOnly : Bool
  copies : List Pending
deriving DecidableEq, Repr

/-- One port: configuration (R28), statistics (R43), receive store (R31) and scheduler (Table 4-1). `ghosts` counts
the frames that were on the link at an engine reset and still hold their buffers (R80); `opportunity` a transmit
opportunity that is due (R72). -/
structure Port where
  enabled : Bool
  config : PortConfig
  stats : Vector ClassStats 6
  ingress : Option Ingress
  queues : Vector (List Copy) 6
  bucket : Int
  remainder : Nat
  lastAdvance : Us
  deficits : Vector Nat 4
  pointer : Fin 4
  quantumAdded : Bool
  tx : Tx
  onLink : Option OnLink
  ghosts : Nat
  opportunity : Bool
deriving DecidableEq, Repr

/-- An entry of the address table (R41). -/
structure AddrEntry where
  mac : Mac
  port : PortId
  lastSeen : Ms
deriving DecidableEq, Repr

/-- The Frame Path: ports, free buffers of the pool (R40), address table (R41). -/
structure Frp where
  ports : Vector Port 5
  free : Nat
  addresses : Vector (Option AddrEntry) 256
  agingDue : Bool
deriving DecidableEq, Repr

/-! ## The Flow Classifier (chapter 3) -/

/-- The normalized key of R46; the fields in order are its 38 bytes. -/
structure FlowKey where
  version : Byte
  protocol : Byte
  addrA : BitVec 128
  portA : Half
  addrB : BitVec 128
  portB : Half
deriving DecidableEq, Repr

/-- What classed a flow (R47). -/
inductive Origin where
  | rule (index : Fin 64) | unmatched | handed
deriving DecidableEq, Repr

/-- A flow record (R47). -/
structure Flow where
  key : FlowKey
  station : Option StaIx
  cls : TClass
  origin : Origin
  listed : Bool
  firstSeen : Ms
  lastSeen : Ms
  bytes : Nat
deriving DecidableEq, Repr

/-- Rule stages (R53). -/
inductive RuleStage where
  | one | two
deriving DecidableEq, Repr

/-- Address families of a rule (R53). -/
inductive Family where
  | any | ipv4 | ipv6
deriving DecidableEq, Repr

/-- Station selectors of a rule (R53). -/
inductive Selector where
  | any | mac (m : Mac) | profile (p : ProfIx)
deriving DecidableEq, Repr

/-- Responses of a rule (R55). -/
inductive Response where
  | terminal | pass | drop
deriving DecidableEq, Repr

/-- A rule with its hit count (Table 3-1). -/
structure Rule where
  enabled : Bool
  stage : RuleStage
  armGroup : Byte
  protoValue : Byte
  protoMask : Byte
  family : Family
  addr : BitVec 128
  prefixLen : Nat
  portLow : Half
  portHigh : Half
  invert : Bool
  dscpValue : BitVec 6
  dscpMask : BitVec 6
  lengthLow : Nat
  lengthHigh : Nat
  selector : Selector
  response : Response
  cls : TClass
  listed : Bool
  report : Bool
  arm : Bool
  armTime : Nat
  hits : Nat
deriving DecidableEq, Repr

/-- The Flow Classifier: 256 sets of 4 ways, the match list, the idle limits in seconds of GAME, LIVE, NORMAL,
BULK, UPDATE (R51), the node's last-GAME time (none is the never mark, R64) and the quiet time (R65). -/
structure Flc where
  sets : Vector (Vector (Option Flow) 4) 256
  rules : Vector Rule 64
  limits : Vector Nat 5
  lastGame : Option Ms
  quiet : Nat
  agingDue : Bool
deriving DecidableEq, Repr

/-! ## Station records (chapters 5 and 9) -/

/-- The gate levels, OPEN highest (R91). -/
inductive Gate where
  | opened | noGame | listedOnly | blocked
deriving DecidableEq, Repr

/-- A handoff id (R133). -/
structure HandoffId where
  node : Byte
  count : Half
deriving DecidableEq, Repr

/-- The handoff sub-record (R82, R141, R142, R145). `wait` is the end of the CONFIRM exchange's current wait during
the settle wait; `body` the OFFER body every send carries (R141). -/
structure Handoff where
  id : HandoffId
  peer : Node
  tries : Nat
  deadline : Ms
  u0 : Nat
  day : Option Word
  settled : Bool
  wait : Option Ms
  body : List Byte
deriving DecidableEq, Repr

/-- An entry of a candidate table (R138). `heard` is none for NOT_HEARD. -/
structure Candidate where
  node : Node
  answered : Bool
  heard : Option Int
  load : Nat
  hold : Bool
deriving DecidableEq, Repr

/-- The candidate table of a WATCHED record with the query's deadline (R138). -/
structure Query where
  entries : List Candidate
  deadline : Ms
deriving DecidableEq, Repr

/-- A held frame (R144), with the source station it came from, whose game activity counts at the later enqueue (R64). -/
structure Held where
  frame : List Byte
  cls : TClass
  ingress : PortId
  source : Option StaIx
  listed : Bool
deriving DecidableEq, Repr

/-- The settle exchange of a LEFT record (R147) with the minutes and day its SETTLE carries. -/
structure SettleWait where
  id : HandoffId
  tries : Nat
  wait : Ms
  u1 : Nat
  day : Option Word
deriving DecidableEq, Repr

/-- The forward peer part of a LEFT record (R82, R147). -/
structure Forward where
  peer : Node
  grace : Ms
  settle : Option SettleWait
deriving DecidableEq, Repr

/-- An arm-list entry (R57). -/
structure Arm where
  group : Byte
  expiry : Ms
deriving DecidableEq, Repr

/-- A station record (Table 5-1, R82). `none` stands for profile NONE, an UNSET average, an UNSTAMPED day, the never
mark, or an absent optional part. Signal levels are in sixteenths of a dBm. -/
structure Station where
  state : StaState
  mac : Mac
  radio : Radio
  profile : Option ProfIx
  rate : Nat
  signal : Option Int
  runOn : Nat
  requery : Nat
  nextQuery : Ms
  used : Nat
  bonus : Nat
  day : Option Word
  bytes : Nat
  spent : Bool
  gate : Gate
  lastGame : Option Ms
  arms : Vector (Option Arm) 4
  departed : Bool
  handoff : Option Handoff
  query : Option Query
  held : Option (List Held)
  forward : Option Forward
deriving DecidableEq, Repr

/-- The calendar values an event of the clock carries (R98). -/
structure Calendar where
  day : Word
  weekday : Fin 7
  minute : Nat
  second : Nat
deriving DecidableEq, Repr

/-- What an event of the clock carries: the calendar after the advance that gave it, none for an unset minute (R99), and
its millisecond time (R98). -/
structure ClockEvent where
  calendar : Option Calendar
  time : Ms
deriving DecidableEq, Repr

/-- What the Schedule Clock has given the Station Table and it has not yet taken (R100): a minute event, a rollover
minute event, or the day rollover of a SET_CLOCK with its new day number (R101). -/
inductive MinuteKind where
  | minute (e : ClockEvent) | rollover (c : Calendar) (time : Ms) | setRollover (day : Word)
deriving DecidableEq, Repr

/-- A notice of the Profile Engine to the Station Table (R117). -/
inductive Notice where
  | stateChange (p : ProfIx) | useChange (p : ProfIx) | allowance (p : ProfIx)
deriving DecidableEq, Repr

/-- The Station Table, with the events and notices that have reached it. -/
structure Stt where
  recs : Vector Station 128
  minutes : List MinuteKind
  notices : List Notice
deriving DecidableEq, Repr

/-! ## The Schedule Clock (chapter 6) -/

/-- The Schedule Clock (R97) and the two running times (R7, R66). `usPart` is the part of a millisecond counted;
`minuteDue` and `unsetDue` mark a boundary reached whose event has not been given yet. -/
structure Sck where
  set : Bool
  day : Word
  weekday : Fin 7
  minute : Nat
  second : Nat
  phase : Nat
  unsetCount : Nat
  minuteDue : Bool
  unsetDue : Bool
  counting : Bool
  ms : Ms
  usPart : Nat
  us : Us
deriving DecidableEq, Repr

/-! ## The Profile Engine (chapter 7) -/

/-- The conditions of Table 7-3. -/
inductive Cond where
  | wOpen (w : Fin 4) | wClosed (w : Fin 4) | paused | notPaused | dayStart | anySpent | noneSpent
deriving DecidableEq, Repr

/-- A transition (R109). -/
structure Transition where
  enabled : Bool
  cond : Cond
  dest : Fin 6
deriving DecidableEq, Repr

/-- A program state (R109). -/
structure ProgState where
  level : Gate
  spentLevel : Gate
  transitions : Vector Transition 4
deriving DecidableEq, Repr

/-- A window (R112); bit d of the mask is weekday d. -/
structure Window where
  mask : BitVec 7
  start : Nat
  stop : Nat
deriving DecidableEq, Repr

/-- Lock levels (R122). -/
inductive Lock where
  | unlocked | programLocked | fullLocked
deriving DecidableEq, Repr

/-- A profile record (Table 7-1). -/
structure Profile where
  inUse : Bool
  lock : Lock
  allowances : Vector Nat 7
  threshold : Nat
  windows : Vector Window 4
  paused : Bool
  count : Nat
  initial : Fin 6
  states : Vector ProgState 6
  current : Fin 6
deriving DecidableEq, Repr

/-- The trigger kinds of Table 7-4, coded as Table 11-1 gives. -/
inductive Cause where
  | minute | rollover | setRollover | clockChange | spentChange | membership | grant
  | setProfile | setProgram | pause | resume | restart
deriving DecidableEq, Repr

/-- The ways on which triggers reach the Profile Engine (Table 7-4): from the Station Table, from the Schedule Clock, and
from its own orders. -/
inductive TriggerPath where
  | station | clock | order
deriving DecidableEq, Repr

/-- The answer an order's evaluation gives: the profile's current state stands between the two parts. -/
structure Reply where
  order : Nat
  before : List Byte
  after : List Byte
deriving DecidableEq, Repr

/-- A trigger given to the Profile Engine and not yet taken (R115), with the minute event that caused it, if one did (R98,
R114). -/
structure Trigger where
  profile : ProfIx
  cause : Cause
  event : Option ClockEvent
  reply : Option Reply
deriving DecidableEq, Repr

/-- The Profile Engine. `taken` counts the triggers taken; it is the model's own, the argument of the free value
`Config.wayTaken`. -/
structure Pfe where
  profiles : Vector Profile 16
  triggers : List Trigger
  taken : Nat
deriving DecidableEq, Repr

/-! ## The Mesh Link Controller (chapter 8) -/

/-- A peer record (Table 8-1). -/
structure Peer where
  node : Node
  mac : Mac
  rate : Nat
  present : Bool
  lastHeard : Option Ms
  lastSeq : Option Half
  load : Nat
  hold : Bool
  staging : Bool
  stagedComplete : Bool
  stagingId : Word
  chunksHeld : Nat
  activeId : Word
deriving DecidableEq, Repr

/-- The discard counts (R129). -/
structure Discards where
  off : Nat
  malformed : Nat
  unknownSender : Nat
  notForUs : Nat
  repeated : Nat
deriving DecidableEq, Repr

/-- A valid message delivered to its block (R129): sender, kind code and body. -/
structure Msg where
  sender : Node
  kind : Nat
  body : List Byte
deriving DecidableEq, Repr

/-- The Mesh Link Controller: identity (R123), peer table (R125), counters (R128, R133), discard counts (R129), the
mesh control frames handed over and not yet taken, and the presence notices sent and not yet taken (R131). -/
structure Mlc where
  set : Bool
  node : Node
  mac : Mac
  etherType : Half
  enable : Bool
  peers : Vector (Option Peer) 7
  seq : Half
  handoffCount : Half
  discards : Discards
  frames : List (List Byte)
  beaconDue : Bool
  presence : List (Node × Bool)
deriving DecidableEq, Repr

/-! ## The Handoff Controller (chapter 9) -/

/-- The roaming configuration (Table 9-1). -/
structure Roaming where
  checkInterval : Nat
  trigger : Int
  runOn : Nat
  listenWindow : Nat
  queryDeadline : Nat
  loadWeight : Nat
  baseMargin : Nat
  gameExtra : Nat
  critical : Int
  arrivalWindow : Nat
deriving DecidableEq, Repr

/-- A listen-list entry (R139). -/
structure Listen where
  mac : Mac
  node : Node
  until_ : Ms
  average : Option Int
deriving DecidableEq, Repr

/-- The Handoff Controller; `forced` is the station whose offer the FORCE_HANDOFF order at the head waits for. -/
structure Hoc where
  roaming : Roaming
  checkAt : Ms
  listen : List Listen
  messages : List Msg
  forced : Option (StaIx × Nat)
deriving DecidableEq, Repr

/-! ## Staging, flash and install (chapter 10) -/

/-- The two slots. -/
inductive Slot where
  | a | b
deriving DecidableEq, Repr

/-- The slot record (R155, R172). -/
structure SlotRecord where
  active : Slot
  fallback : Slot
  trial : Bool
  remaining : Nat
  idA : Word
  idB : Word
deriving DecidableEq, Repr

/-- A manifest (R156, R172). -/
structure Manifest where
  id : Word
  length : Nat
  count : Nat
  crcs : List Word
deriving DecidableEq, Repr

/-- The staging states (R156). -/
inductive Staging where
  | idle | staging | rescanning | complete | hold
deriving DecidableEq, Repr

/-- A chunk-map entry (R156). -/
inductive ChunkState where
  | missing | writing | present
deriving DecidableEq, Repr

/-- What an assembly buffer is used for (R158, R159, R162): the bulk read of a STAGE_CHUNK, the fragments of a peer
assembly with the time it opened, or one of the phases of a chunk write. -/
inductive BufPhase where
  | reading
  | assembling (fragments : List (Option (List Byte))) (opened : Ms)
  | erasing | programming (page : Nat) | verifying
deriving DecidableEq, Repr

/-- A held assembly buffer; `order` is the STAGE_CHUNK it works for, if any. -/
structure Buf where
  chunk : Nat
  data : List Byte
  order : Option Nat
  phase : BufPhase
deriving DecidableEq, Repr

/-- The host order the Update Stager is working beyond one step (R156). -/
inductive UpsWork where
  | idle
  | beginHead (order : Nat) (got : List Byte)
  | beginBody (order : Nat) (size : Nat) (got : List Byte)
  | beginErase (order : Nat) (sector : Nat) (bytes : List Byte)
  | beginProgram (order : Nat) (page : Nat) (bytes : List Byte)
  | stageWait (order : Nat) (chunk : Nat) (offset : Nat)
  | stage (order : Nat)
  | resume (order : Nat) (got : List Byte)
  | rescan (order : Nat) (chunk : Nat)
  | slotErase (order : Nat) (record : SlotRecord) (commit : Bool)
  | slotProgram (order : Nat) (record : SlotRecord) (commit : Bool)
deriving DecidableEq, Repr

/-- The fetch (R162). -/
structure Fetch where
  source : Option Node
  batch : List Nat
  deadline : Option Ms
  retryAt : Option Ms
deriving DecidableEq, Repr

/-- A serve-list entry (R163). -/
structure Serve where
  node : Node
  id : Word
  chunk : Nat
deriving DecidableEq, Repr

/-- The Update Stager (R156); `lastServe` is the scheduler time of the latest serve's start (R163), `minutes` holds the
minute events that have reached it and are not yet taken. -/
structure Ups where
  state : Staging
  manifest : Option Manifest
  map : List ChunkState
  bufs : Vector (Option Buf) 4
  work : UpsWork
  fetch : Option Fetch
  serves : List Serve
  serving : Option Serve
  serveGap : Nat
  lastServe : Option Us
  cleanServes : Nat
  window : Window
  holdLimit : Nat
  gapMin : Nat
  holdMinutes : Nat
  minutes : List ClockEvent
  messages : List Msg
deriving DecidableEq, Repr

/-- The request classes of the Flash Controller (R153), highest first. -/
inductive FlashClass where
  | slotRecord | readFlash | serve | staging
deriving DecidableEq, Repr

/-- The granted operations (R153). -/
inductive FlashKind where
  | read | program | erase
deriving DecidableEq, Repr

/-- Who waits for a flash operation; `nobody` is one whose requester is gone. -/
inductive FlashOwner where
  | nobody | boot | readFlash | serve | work | buf (index : Fin 4) | cancel (order : Nat)
deriving DecidableEq, Repr

/-- A flash operation: a read of `len` bytes, a program of `data`, or the erase of the sector at `addr`. -/
structure FlashOp where
  cls : FlashClass
  kind : FlashKind
  addr : Nat
  len : Nat
  data : List Byte
  owner : FlashOwner
deriving DecidableEq, Repr

/-- The slot record check (R153, R155): the status wait, the record read, its write, the manifest read, done. The
report kind and written flag wait for the end of the check. -/
inductive Boot where
  | off
  | waitStatus (until_ : Us)
  | statusRead
  | readRecord
  | eraseRecord (record : SlotRecord) (report : ReportKind)
  | programRecord (record : SlotRecord) (report : ReportKind)
  | readManifest (record : SlotRecord) (report : Option (ReportKind × Bool)) (got : List Byte)
  | done
deriving DecidableEq, Repr

/-- A READ_FLASH under way (R166): flash address and length of the present piece, bytes left after it, and its
destination. -/
structure ReadWork where
  order : Nat
  total : Nat
  addr : Nat
  piece : Nat
  left : Nat
  dest : Nat
deriving DecidableEq, Repr

/-- The Flash Controller (R153). `stalled` holds after a timeout, until a status read shows not busy. `activeManifest`
is what the check keeps of the active slot's manifest for serving (R155). -/
structure Fls where
  op : Option (FlashOp × Us)
  waiting : List FlashOp
  stalled : Bool
  boot : Boot
  slot : SlotRecord
  activeManifest : Option Manifest
  readWork : Option ReadWork
deriving DecidableEq, Repr

/-! ## The whole state -/

/-- The state of the part, and the queue of commands waiting to be taken. -/
structure State where
  pending : List Instr
  exu : Exu
  frp : Frp
  flc : Flc
  stt : Stt
  sck : Sck
  pfe : Pfe
  mlc : Mlc
  hoc : Hoc
  ups : Ups
  fls : Fls
deriving DecidableEq, Repr

/-! ## Power-on values -/

/-- Default line, basic or MESH rate of a port (Table 2-1). -/
def defaultRate : PortId → Nat
  | .localPort | .wan => 1000
  | .radioA | .radioB => 24
  | .mesh => 866

/-- Default overhead of a port (Table 2-1). -/
def defaultOverhead : PortId → Nat
  | .localPort | .wan => 0
  | .radioA | .radioB | .mesh => 44

/-- The configuration defaults of Table 2-1. -/
def PortConfig.default (p : PortId) : PortConfig where
  rate := defaultRate p
  overhead := defaultOverhead p
  share := 300
  depth := 8000
  quanta := #v[4000, 2000, 1000, 250]
  limits := #v[64, 128, 256, 512, 512, 128]

/-- All counters 0 (R43). -/
def ClassStats.zero : ClassStats := ⟨0, 0, 0, 0, 0, 0, 0, 0, 0⟩

/-- A port after power-on (R28, R43, Table 4-1). -/
def Port.reset (p : PortId) : Port where
  enabled := false
  config := .default p
  stats := .replicate 6 .zero
  ingress := none
  queues := .replicate 6 []
  bucket := 8000
  remainder := 0
  lastAdvance := 0
  deficits := .replicate 4 0
  pointer := 0
  quantumAdded := false
  tx := .notReady
  onLink := none
  ghosts := 0
  opportunity := false

/-- A clear rule (Table 3-1). -/
def Rule.clear : Rule where
  enabled := false
  stage := .one
  armGroup := 0
  protoValue := 0
  protoMask := 0
  family := .any
  addr := 0
  prefixLen := 0
  portLow := 0
  portHigh := 65535
  invert := false
  dscpValue := 0
  dscpMask := 0
  lengthLow := 60
  lengthHigh := 2048
  selector := .any
  response := .pass
  cls := .normal
  listed := false
  report := false
  arm := false
  armTime := 60
  hits := 0

/-- A record in FREE (Table 5-1). -/
def Station.free : Station where
  state := .free
  mac := 0
  radio := .a
  profile := none
  rate := 1
  signal := none
  runOn := 0
  requery := 2
  nextQuery := 0
  used := 0
  bonus := 0
  day := none
  bytes := 0
  spent := false
  gate := .opened
  lastGame := none
  arms := .replicate 4 none
  departed := false
  handoff := none
  query := none
  held := none
  forward := none

/-- A cleared transition (Table 7-1). -/
def Transition.clear : Transition := ⟨false, .wOpen 0, 0⟩

/-- A cleared program state (Table 7-1). -/
def ProgState.clear : ProgState := ⟨.opened, .opened, .replicate 4 .clear⟩

/-- A window that never opens. -/
def Window.never : Window := ⟨0, 0, 0⟩

/-- A profile record after power-on (Table 7-1). -/
def Profile.reset : Profile where
  inUse := false
  lock := .unlocked
  allowances := .replicate 7 1440
  threshold := 20000
  windows := .replicate 4 .never
  paused := false
  count := 1
  initial := 0
  states := .replicate 6 .clear
  current := 0

/-- The roaming defaults (Table 9-1). -/
def Roaming.default : Roaming where
  checkInterval := 200
  trigger := -72
  runOn := 5
  listenWindow := 300
  queryDeadline := 500
  loadWeight := 8
  baseMargin := 6
  gameExtra := 4
  critical := -80
  arrivalWindow := 10000

/-- The slot record copy before the check (R155). -/
def SlotRecord.default : SlotRecord := ⟨.a, .b, false, 0, 0, 0⟩

/-- The Exchange Unit after power-on (R27, Table 1-5). -/
def Exu.reset : Exu where
  areaLow := 0
  areaHigh := 0
  areaSize := 0
  events := 0
  eventMask := 0
  engine := .off
  fault := .none
  area := ⟨0, 0⟩
  runWait := none
  resetUntil := 0
  cursor := .nowhere
  reportPos := .nowhere
  look := .idle
  lookPending := false
  scanPeriod := 0
  scanAt := none
  inFlight := []
  nextOrder := 0
  answers := []
  lastTaken := none
  arrivals := []
  hold := []
  blocked := false
  place := .idle
  bus := none
  busWait := []
  readPos := none
  tableWork := none
  msi := 0

/-- The Frame Path after power-on (R28, R40, R42). -/
def Frp.reset : Frp where
  ports := #v[.reset .localPort, .reset .wan, .reset .radioA, .reset .radioB, .reset .mesh]
  free := Config.poolSize
  addresses := .replicate 256 none
  agingDue := false

/-- The Flow Classifier after power-on (R47, R51, R53, R64, R65). -/
def Flc.reset : Flc where
  sets := .replicate 256 (.replicate 4 none)
  rules := .replicate 64 .clear
  limits := #v[30, 60, 300, 300, 60]
  lastGame := none
  quiet := 10
  agingDue := false

/-- The Station Table after power-on (R96). -/
def Stt.reset : Stt where
  recs := .replicate 128 .free
  minutes := []
  notices := []

/-- The Schedule Clock after power-on (R97). -/
def Sck.reset : Sck where
  set := false
  day := 0
  weekday := 0
  minute := 0
  second := 0
  phase := 0
  unsetCount := 0
  minuteDue := false
  unsetDue := false
  counting := false
  ms := 0
  usPart := 0
  us := 0

/-- The Profile Engine after power-on (R109). -/
def Pfe.reset : Pfe where
  profiles := .replicate 16 .reset
  triggers := []
  taken := 0

/-- The Mesh Link Controller after power-on (R123, R125, R128, R129, R133). -/
def Mlc.reset : Mlc where
  set := false
  node := 0
  mac := 0
  etherType := Config.defaultEtherType
  enable := false
  peers := .replicate 7 none
  seq := 0
  handoffCount := 0
  discards := ⟨0, 0, 0, 0, 0⟩
  frames := []
  beaconDue := false
  presence := []

/-- The Handoff Controller after power-on (R135, R152). -/
def Hoc.reset : Hoc where
  roaming := .default
  checkAt := 0
  listen := []
  messages := []
  forced := none

/-- The Update Stager after power-on (R156). -/
def Ups.reset : Ups where
  state := .idle
  manifest := none
  map := []
  bufs := .replicate 4 none
  work := .idle
  fetch := none
  serves := []
  serving := none
  serveGap := 20
  lastServe := none
  cleanServes := 0
  window := .never
  holdLimit := 30
  gapMin := 20
  holdMinutes := 0
  minutes := []
  messages := []

/-- The Flash Controller after power-on (R153, R155). -/
def Fls.reset : Fls where
  op := none
  waiting := []
  stalled := false
  boot := .off
  slot := .default
  activeManifest := none
  readWork := none

/-- The part after power-on (R27): every register at its value of Table 1-1, every block in its power-on state, and
no command waiting. -/
def State.reset : State where
  pending := []
  exu := .reset
  frp := .reset
  flc := .reset
  stt := .reset
  sck := .reset
  pfe := .reset
  mlc := .reset
  hoc := .reset
  ups := .reset
  fls := .reset

end Sys2Proof.Machine
end

