-- ==== Sys2Proof/Machine/Bits.lean ====
section
/-!
DEFINITION. Byte order, wrapping times, clamps, the CRC-32 and the code values of chapter 11.
-/

namespace Sys2Proof.Machine

open Sys2Proof

/-! ## Bytes (R167) -/

/-- Byte `i` of a sequence; a byte beyond its end reads 0 (R167). -/
def byteAt (l : List Byte) (i : Nat) : Byte := l.getD i 0

/-- `n` bytes of a number, least significant first (exchange area, flash). -/
def le : (n : Nat) → (v : Nat) → List Byte
  | 0, _ => []
  | n + 1, v => BitVec.ofNat 8 v :: le n (v / 256)

/-- `n` bytes of a number, most significant first (mesh messages, frames). -/
def be (n v : Nat) : List Byte := (le n v).reverse

/-- The little-endian number of `n` bytes at `i`. -/
def leAt (l : List Byte) (i : Nat) : (n : Nat) → Nat
  | 0 => 0
  | n + 1 => (byteAt l i).toNat + 256 * leAt l (i + 1) n

/-- The big-endian number of `n` bytes at `i`. -/
def beAt (l : List Byte) (i n : Nat) : Nat :=
  (List.range n).foldl (fun a k => a * 256 + (byteAt l (i + k)).toNat) 0

/-- Exactly `n` bytes: the sequence cut, or followed by zero bytes. -/
def pad (n : Nat) (l : List Byte) : List Byte := (l ++ List.replicate n 0).take n

/-- A flag as a byte (R167). -/
def flagByte (b : Bool) : Byte := if b then 1 else 0

/-- A number of one byte. -/
def byteOf (n : Nat) : Byte := BitVec.ofNat 8 n

/-- A 16-bit two's complement field as a whole number (R167). -/
def signed16 (n : Nat) : Int := if n < 32768 then (n : Int) else (n : Int) - 65536

/-- A whole number as a 16-bit two's complement field. -/
def code16 (x : Int) : Nat := (x % 65536).toNat

/-- A signal value, with 0x8000 for UNSET and NOT_HEARD (R167). -/
def signalCode : Option Int → Nat
  | none => 0x8000
  | some x => code16 x

/-- The signal value a 16-bit field names (R167). -/
def signalOf (n : Nat) : Option Int := if n = 0x8000 then none else some (signed16 n)

/-- The six bytes of a MAC in transmission order. -/
def macBytes (m : Mac) : List Byte := be 6 m.toNat

/-- The MAC of six bytes at `i`. -/
def macAt (l : List Byte) (i : Nat) : Mac := BitVec.ofNat 48 (beAt l i 6)

/-- A group address: the least significant bit of the first byte is 1 (R33). -/
def groupMac (m : Mac) : Bool := m.getLsbD 40

/-- An individual address other than all zeros, as the orders require of a MAC. -/
def usableMac (m : Mac) : Bool := !groupMac m && m != 0

/-- The broadcast address. -/
def broadcastMac : Mac := 0xFFFFFFFFFFFF#48

/-! ## Numbers -/

/-- A number clamped to lo..hi. -/
def clamp (lo hi n : Nat) : Nat := min hi (max lo n)

/-- A whole number clamped to lo..hi. -/
def clampInt (lo hi n : Int) : Int := min hi (max lo n)

/-- Addition saturating at 2^32 - 1. -/
def satAdd (a b : Nat) : Nat := min Config.counterMax (a + b)

/-- The least integer not less than a / b. -/
def ceilDiv (a b : Nat) : Nat := (a + b - 1) / b

/-! ## Times (R167) -/

/-- The wrapped difference from `t` to the present time. -/
def elapsed (now t : Ms) : Nat := (now - t).toNat

/-- `t` is the present time or lies in the past (R167). -/
def reached (now t : Ms) : Bool := elapsed now t < 2 ^ 31

/-- `t` lies at least `n` milliseconds in the past. -/
def pastBy (now t : Ms) (n : Nat) : Bool := reached now t && n ≤ elapsed now t

/-- How far in the past `t` lies. DESIGN CHOICE, log entry 38: a time not in the past counts as the present. -/
def age (now t : Ms) : Nat := if reached now t then elapsed now t else 0

/-- A time `n` milliseconds after `t`. -/
def after (t : Ms) (n : Nat) : Ms := t + BitVec.ofNat 32 n

/-! ## CRC-32 (R168) -/

/-- One shift of the CRC register. -/
def crcBit (r : Word) : Word := if r.getLsbD 0 then (r >>> 1) ^^^ 0xEDB88320#32 else r >>> 1

/-- One byte taken into the CRC register. -/
def crcByte (r : Word) (b : Byte) : Word :=
  crcBit (crcBit (crcBit (crcBit (crcBit (crcBit (crcBit (crcBit (r ^^^ b.setWidth 32))))))))

/-- The CRC-32 of a sequence of bytes. -/
def crc32 (l : List Byte) : Word := l.foldl crcByte 0xFFFFFFFF#32 ^^^ 0xFFFFFFFF#32

/-! ## Collections -/

/-- The first element satisfying `p` and the list without it. -/
def takeFirst (p : α → Bool) : List α → Option (α × List α)
  | [] => none
  | x :: xs =>
    if p x then some (x, xs)
    else match takeFirst p xs with
      | none => none
      | some (y, ys) => some (y, x :: ys)

/-- The first index whose entry satisfies `p`. -/
def firstIx (v : Vector α n) (p : α → Bool) : Option (Fin n) := (List.finRange n).find? fun i => p (v.get i)

/-- A vector with entry `i` replaced. -/
def put (v : Vector α n) (i : Fin n) (x : α) : Vector α n := v.set i.val x i.isLt

/-- The index a number names, if it lies in range. -/
def finOf (n k : Nat) : Option (Fin n) := if h : k < n then some ⟨k, h⟩ else none

/-! ## Codes (R169, Table 11-1) -/

def portIx : PortId → Fin 5
  | .localPort => 0 | .wan => 1 | .radioA => 2 | .radioB => 3 | .mesh => 4

def portOfCode : Nat → Option PortId
  | 0 => some .localPort | 1 => some .wan | 2 => some .radioA | 3 => some .radioB | 4 => some .mesh | _ => none

/-- LOCAL and WAN are the wired ports. -/
def portWired : PortId → Bool
  | .localPort | .wan => true
  | .radioA | .radioB | .mesh => false

/-- The radio of a radio port. -/
def portRadio : PortId → Option Radio
  | .radioA => some .a
  | .radioB => some .b
  | .localPort | .wan | .mesh => none

def radioPort : Radio → PortId
  | .a => .radioA | .b => .radioB

def classIx : TClass → Fin 6
  | .ctrl => 0 | .game => 1 | .live => 2 | .normal => 3 | .bulk => 4 | .update => 5

def classOfCode : Nat → Option TClass
  | 0 => some .ctrl | 1 => some .game | 2 => some .live | 3 => some .normal | 4 => some .bulk | 5 => some .update
  | _ => none

/-- The DRR classes in cyclic order LIVE, NORMAL, BULK, UPDATE (R77). -/
def drrClass : Fin 4 → TClass
  | 0 => .live | 1 => .normal | 2 => .bulk | 3 => .update

def StaState.code : StaState → Nat
  | .free => 0 | .active => 1 | .watched => 2 | .offering => 3 | .moving => 4 | .withdrawing => 5 | .left => 6
  | .reserved => 7

def Gate.code : Gate → Nat
  | .opened => 0 | .noGame => 1 | .listedOnly => 2 | .blocked => 3

def Gate.ofCode : Nat → Option Gate
  | 0 => some .opened | 1 => some .noGame | 2 => some .listedOnly | 3 => some .blocked | _ => none

/-- The lower of two levels (R91). -/
def Gate.lower (a b : Gate) : Gate := if a.code < b.code then b else a

def Lock.code : Lock → Nat
  | .unlocked => 0 | .programLocked => 1 | .fullLocked => 2

def Lock.ofCode : Nat → Option Lock
  | 0 => some .unlocked | 1 => some .programLocked | 2 => some .fullLocked | _ => none

def Cond.code : Cond → Nat
  | .wOpen w => w.val | .wClosed w => 4 + w.val | .paused => 8 | .notPaused => 9 | .dayStart => 10 | .anySpent => 11
  | .noneSpent => 12

def Cond.ofCode (n : Nat) : Option Cond :=
  match n with
  | 8 => some .paused | 9 => some .notPaused | 10 => some .dayStart | 11 => some .anySpent | 12 => some .noneSpent
  | n => if h : n < 4 then some (.wOpen ⟨n, h⟩) else if h : n - 4 < 4 then some (.wClosed ⟨n - 4, h⟩) else none

def Status.code : Status → Nat
  | .ok => 0 | .again => 1 | .refusedState => 2 | .badParam => 3 | .noRoom => 4 | .notFound => 5 | .duplicate => 6
  | .locked => 7 | .sequence => 8 | .unknownOrder => 9 | .areaError => 10 | .deferred => 11 | .flashError => 12
  | .crcMismatch => 13 | .cancelled => 14 | .declined => 15 | .timeout => 16

def ReportKind.code : ReportKind → Nat
  | .steer => 1 | .handoffDone => 2 | .handoffFailed => 3 | .stationArrived => 4 | .stationGone => 5
  | .reservationExpired => 6 | .settleLost => 7 | .allowanceSpent => 8 | .profileState => 9 | .profileCycle => 10
  | .ruleHit => 11 | .peerChange => 12 | .stagingComplete => 13 | .chunkFailed => 14 | .fetchStalled => 15
  | .holdEnd => 16 | .recordInvalid => 17 | .reverted => 18 | .trialStart => 19

/-- The coalescing kinds of Table 1-4. -/
def ReportKind.coalesces : ReportKind → Bool
  | .profileState | .ruleHit | .peerChange | .fetchStalled => true
  | _ => false

def Cause.code : Cause → Nat
  | .minute => 0 | .rollover => 1 | .setRollover => 2 | .clockChange => 3 | .spentChange => 4 | .membership => 5
  | .grant => 6 | .setProfile => 7 | .setProgram => 8 | .pause => 9 | .resume => 10 | .restart => 11

def Staging.code : Staging → Nat
  | .idle => 0 | .staging => 1 | .rescanning => 2 | .complete => 3 | .hold => 4

def Slot.code : Slot → Nat
  | .a => 0 | .b => 1

def Slot.ofCode : Nat → Option Slot
  | 0 => some .a | 1 => some .b | _ => none

/-- The other slot. -/
def Slot.other : Slot → Slot
  | .a => .b | .b => .a

def ChunkState.code : ChunkState → Nat
  | .missing => 0 | .writing => 1 | .present => 2

def Origin.code : Origin → Nat
  | .rule i => i.val | .unmatched => 64 | .handed => 65

def Engine.code : Engine → Nat
  | .off => 0 | .resetting => 1 | .running => 2 | .halted => 3

def FaultCause.code : FaultCause → Nat
  | .none => 0 | .headerInvalid => 1 | .chainPointerInvalid => 2 | .blockInvalid => 3 | .readError => 4
  | .writeError => 5

def Event.bit : Event → Fin 6
  | .answered => 0 | .reported => 1 | .backlog => 2 | .reportLoss => 3 | .areaFault => 4 | .resetDone => 5

/-- Detail reasons of Table 11-1. -/
def reasonTrialPending : Byte := 1
def reasonUpdating : Byte := 2
def reasonBusy : Byte := 3
def reasonDuplicate : Byte := 4
def reasonNoRoom : Byte := 5
def reasonAbsent : Byte := 6
def reasonWithdrawn : Byte := 7
def reasonTimeout : Byte := 8

/-- A profile number as a byte, NONE as 255 (R167). -/
def profileByte : Option ProfIx → Byte
  | none => 255
  | some p => byteOf p.val

/-- A station index as a byte, NONE as 255 (R167). -/
def stationByte : Option StaIx → Byte
  | none => 255
  | some i => byteOf i.val

/-- A handoff id in the exchange area: node, zero byte, 16-bit count little-endian (R167). -/
def HandoffId.leBytes (h : HandoffId) : List Byte := [h.node, 0] ++ le 2 h.count.toNat

/-- A handoff id in a mesh message: node, zero byte, 16-bit count most significant byte first (R167). -/
def HandoffId.beBytes (h : HandoffId) : List Byte := [h.node, 0] ++ be 2 h.count.toNat

/-- The handoff id at `i` of a message body. DEDUCED, log entry 26: the byte between node and count is not looked at
(R133). -/
def handoffIdAt (l : List Byte) (i : Nat) : HandoffId := ⟨byteAt l i, BitVec.ofNat 16 (beAt l (i + 2) 2)⟩

end Sys2Proof.Machine
end

