-- ==== Sys2Proof/Machine/Flags.lean ====
section
/-!
DEFINITION. The register window: the STATUS word, the event bits with their interrupt, and what a read of each
register returns (R1, R4, R22, Table 11-2).
-/

namespace Sys2Proof.Machine

open Sys2Proof

/-- The bits of EVENTS and EVENT_MASK that Table 11-2 names. -/
def eventBits : Word := 0x3F#32

/-- Whether an event bit is set. -/
def State.event (s : State) (e : Event) : Bool := s.exu.events.getLsbD e.bit.val

/-- An event arises: its bit becomes 1, and the interrupt message is sent when the bit was 0 and its mask bit is 1
(R22). -/
def State.setEvent (s : State) (e : Event) : State :=
  { s with exu := { s.exu with
      events := s.exu.events ||| (1#32 <<< e.bit.val)
      msi := if !s.exu.events.getLsbD e.bit.val && s.exu.eventMask.getLsbD e.bit.val then s.exu.msi + 1
             else s.exu.msi } }

/-- The STATUS word of R4 in the layout of Table 11-2. -/
def State.status (s : State) : Word :=
  BitVec.ofNat 32 (s.exu.engine.code + 16 * s.exu.inFlight.length + 1024 * s.exu.hold.length
    + 65536 * s.exu.fault.code)

/-- What a 32-bit read of the register at word offset `k` of the window returns (R1). A read changes nothing. -/
def State.readRegister (s : State) (k : Fin 8) : Word :=
  match k with
  | 0 => Config.ident
  | 1 => s.exu.areaLow
  | 2 => s.exu.areaHigh
  | 3 => s.exu.areaSize
  | 4 => 0
  | 5 => s.status
  | 6 => s.exu.events
  | 7 => s.exu.eventMask

/-- What a one-byte read at a byte offset of the window returns: the addressed byte of its register (R1). -/
def State.readByte (s : State) (offset : BitVec 5) : Byte :=
  ((s.readRegister ⟨offset.toNat / 4, by have := offset.isLt; omega⟩) >>> (8 * (offset.toNat % 4))).setWidth 8

/-- What AREA_SIZE holds after a write: rounded down to 64 KiB and clamped (R2). -/
def areaSizeOf (v : Word) : Word :=
  BitVec.ofNat 32 (clamp 65536 16777216 (v.toNat / 65536 * 65536))

/-- The effect of a 32-bit write to AREA_SIZE (R2). -/
def State.writeAreaSize (s : State) (v : Word) : State :=
  { s with exu := { s.exu with areaSize := areaSizeOf v } }

/-- The effect of a 32-bit write to EVENTS: the bits written as 1 are cleared (R22). -/
def State.clearEvents (s : State) (v : Word) : State :=
  { s with exu := { s.exu with events := s.exu.events &&& ~~~v } }

end Sys2Proof.Machine
end

