-- ==== Sys2Proof/Machine/Operands.lean ====
section
/-!
DEFINITION. The operands of an order: its parameters, packed from byte 48 of its block on (R167), and the test of a data
buffer it names (R16).
-/

namespace Sys2Proof.Machine

open Sys2Proof

/-- One-byte parameter at byte `i` of the parameters (R167). -/
def Order.u8 (o : Order) (i : Nat) : Nat := (byteAt o.params i).toNat
/-- Two-byte parameter. -/
def Order.u16 (o : Order) (i : Nat) : Nat := leAt o.params i 2
/-- Four-byte parameter. -/
def Order.u32 (o : Order) (i : Nat) : Nat := leAt o.params i 4
/-- Flag parameter: a nonzero byte counts as true (R167). -/
def Order.flag (o : Order) (i : Nat) : Bool := byteAt o.params i != 0

/-- A buffer of `n` bytes at an area offset is usable (R16). -/
def usable (a : Area) (offset n : Nat) : Bool := 64 ≤ offset && offset + n ≤ a.size

end Sys2Proof.Machine
end

