-- ==== Sys2Proof/Machine/Ops.lean ====
section
/-!
DEFINITION. The shared operations of the exchange: giving a report, the orders-in-flight list and the block order
lists, the bus-master arbiter, looks, placements and area faults (chapter 1); and the triggers and notices the
blocks send each other.
-/

namespace Sys2Proof.Machine

open Sys2Proof

/-- What a command answers when it is taken: every command of this part has a next state. -/
abbrev Result := Host.Outcome State Fault Refusal

/-- The present millisecond time (R7). -/
def State.now (s : State) : Ms := s.sck.ms

/-! ## Ports, stations, profiles: one home for each read and write -/

def State.port (s : State) (p : PortId) : Port := s.frp.ports.get (portIx p)

def State.setPort (s : State) (p : PortId) (x : Port) : State :=
  { s with frp := { s.frp with ports := put s.frp.ports (portIx p) x } }

def State.sta (s : State) (i : StaIx) : Station := s.stt.recs.get i

def State.setSta (s : State) (i : StaIx) (r : Station) : State :=
  { s with stt := { s.stt with recs := put s.stt.recs i r } }

def State.profile (s : State) (p : ProfIx) : Profile := s.pfe.profiles.get p

def State.setProfile (s : State) (p : ProfIx) (r : Profile) : State :=
  { s with pfe := { s.pfe with profiles := put s.pfe.profiles p r } }

/-! ## Reports, triggers, notices -/

/-- A block gives the Exchange Unit a report, timed at the present (section 1.7). -/
def State.giveReport (s : State) (kind : ReportKind) (subject : Nat) (body : List Byte) : State :=
  { s with exu := { s.exu with arrivals := s.exu.arrivals ++ [⟨kind, subject, s.now, body⟩] } }

/-- An evaluation trigger is given to the Profile Engine (R115). -/
def State.trigger (s : State) (t : Trigger) : State :=
  { s with pfe := { s.pfe with triggers := s.pfe.triggers ++ [t] } }

/-- A trigger of one profile without a minute event or answer. -/
def State.triggerFor (s : State) (p : ProfIx) (c : Cause) : State := s.trigger ⟨p, c, none, none⟩

/-- A trigger that names all profiles: one evaluation of each in number order (R115). -/
def State.triggerAll (s : State) (c : Cause) (e : Option ClockEvent) : State :=
  { s with pfe := { s.pfe with
      triggers := s.pfe.triggers ++ (List.finRange 16).map fun p => ⟨p, c, e, none⟩ } }

/-- A notice of the Profile Engine reaches the Station Table (R117). -/
def State.notice (s : State) (n : Notice) : State :=
  { s with stt := { s.stt with notices := s.stt.notices ++ [n] } }

/-- A membership notice for the profile of a record, if it has one (R84). -/
def State.membership (s : State) : Option ProfIx → State
  | none => s
  | some p => s.triggerFor p .membership

/-! ## Orders (R12, R13, R14, R16) -/

/-- The defined order kinds (Table 11-1). -/
def definedKind (k : Byte) : Bool :=
  let n := k.toNat
  n ≤ 0x03 || (0x10 ≤ n && n ≤ 0x11) || (0x20 ≤ n && n ≤ 0x23) || (0x30 ≤ n && n ≤ 0x33) || (0x40 ≤ n && n ≤ 0x41)
    || (0x50 ≤ n && n ≤ 0x56) || (0x60 ≤ n && n ≤ 0x63) || (0x70 ≤ n && n ≤ 0x71) || (0x80 ≤ n && n ≤ 0x89) || n == 0x90

/-- The block whose order list an order joins: its owner by the high nibble, or the Exchange Unit when the kind is
not a defined code (R13). -/
def ownerOf (k : Byte) : BlockId :=
  if definedKind k then
    match k.toNat / 16 with
    | 1 => .frp | 2 => .flc | 3 => .stt | 4 => .sck | 5 => .pfe | 6 => .mlc | 7 => .hoc | 8 => .ups | 9 => .fls
    | _ => .exu
  else .exu

/-- The order at the head of a block's order list: each block works its orders in the order taken (R13). -/
def State.headOrder (s : State) (b : BlockId) : Option Order :=
  s.exu.inFlight.find? fun o => o.owner == b && !o.ended

/-- The order at the head of a block's list when it is of the kind given and not begun. -/
def State.freshHead (s : State) (b : BlockId) (k : Byte) : Option Order :=
  match s.headOrder b with
  | some o => if o.kind == k && o.progress == .fresh then some o else none
  | none => none

/-- Change the entry of one order. -/
def State.updOrder (s : State) (id : Nat) (f : Order → Order) : State :=
  { s with exu := { s.exu with inFlight := s.exu.inFlight.map fun o => if o.id = id then f o else o } }

/-- Record how far the owning block is with an order. -/
def State.mark (s : State) (id : Nat) (p : Progress) : State := s.updOrder id fun o => { o with progress := p }

/-- The owning block ends an order and hands its answer to the Exchange Unit (R14, R15). -/
def State.finish (s : State) (id : Nat) (st : Status) (detail : Byte) (results : List Byte) : State :=
  let s := s.updOrder id fun o => { o with ended := true }
  { s with exu := { s.exu with answers := s.exu.answers ++ [⟨id, st, detail, results⟩] } }

/-- An answer with a status alone. -/
def State.refuse (s : State) (o : Order) (st : Status) : State := s.finish o.id st 0 []

/-- An answer OK with result fields. -/
def State.accept (s : State) (o : Order) (results : List Byte) : State := s.finish o.id .ok 0 results

/-- The meaning of an order command: work the order at the head of the block's list when it is of this kind and not
begun; with no such order there is nothing to work (log entry 2). -/
def workOrder (b : BlockId) (k : Byte) (f : Order → State → State) (s : State) : Result :=
  .next (match s.freshHead b k with
    | some o => f o s
    | none => s)

/-! ## The bus-master arbiter (R23) -/

/-- The waiting access to start next: the oldest of the highest class present. -/
def nextAccess (l : List Access) : Option (Access × List Access) :=
  match takeFirst (fun a => a.cls == .answer) l with
  | some r => some r
  | none =>
    match takeFirst (fun a => a.cls == .report) l with
    | some r => some r
    | none =>
      match takeFirst (fun a => a.cls == .order) l with
      | some r => some r
      | none => takeFirst (fun _ => true) l

/-- Start an access. An answer's state write is issued here: it writes ANSWERED (3) if the cursor rests on the block
and RELEASED (4) if it does not (R14). -/
def State.startAccess (s : State) (a : Access) : State :=
  match a.owner with
  | .answerState off =>
    match s.exu.cursor with
    | .block c _ =>
      if c = off then
        { s with exu := { s.exu with cursor := .block c true, bus := some ({ a with data := [3] }, s.sck.us) } }
      else { s with exu := { s.exu with bus := some ({ a with data := [4] }, s.sck.us) } }
    | .nowhere | .anchor => { s with exu := { s.exu with bus := some ({ a with data := [4] }, s.sck.us) } }
  | _ => { s with exu := { s.exu with bus := some (a, s.sck.us) } }

/-- When the port is free and accesses are waiting, the arbiter starts one (R23). -/
def State.arbitrate (s : State) : State :=
  match s.exu.bus with
  | some _ => s
  | none =>
    match nextAccess s.exu.busWait with
    | none => s
    | some (a, rest) => State.startAccess { s with exu := { s.exu with busWait := rest } } a

/-- Request accesses, in order. -/
def State.request (s : State) (l : List Access) : State :=
  State.arbitrate { s with exu := { s.exu with busWait := s.exu.busWait ++ l } }

/-- The host address of an area offset. -/
def Area.addr (a : Area) (offset : Nat) : BitVec 64 := a.base + BitVec.ofNat 64 offset

/-- The consecutive pieces of at most 256 bytes of a transfer of `len` bytes: offset and length of each (R23). -/
def pieces (len : Nat) : List (Nat × Nat) :=
  (List.range (ceilDiv len 256)).map fun k => (k * 256, min 256 (len - k * 256))

/-- A read of `len` bytes at an area offset, in pieces. DESIGN CHOICE, log entry 25: all pieces of a transfer are
requested at once, in address order. -/
def readAccesses (cls : BusClass) (a : Area) (offset len : Nat) (owner : BusOwner) : List Access :=
  (pieces len).map fun p => ⟨cls, false, a.addr (offset + p.1), p.2, [], owner⟩

/-- A write of bytes at an area offset, in pieces, all requested at once as `readAccesses` requests those of a read (log
entry 25). -/
def writeAccesses (cls : BusClass) (a : Area) (offset : Nat) (data : List Byte) (owner : BusOwner) : List Access :=
  (pieces data.length).map fun p => ⟨cls, true, a.addr (offset + p.1), p.2, (data.drop p.1).take p.2, owner⟩

/-- A bulk read of an order, in the area that was in use when it was taken (R25). -/
def State.bulkRead (s : State) (o : Order) (offset len : Nat) : State :=
  s.request (readAccesses .bulk o.area offset len (.bulk o.id))

/-- A bulk write of an order. -/
def State.bulkWrite (s : State) (o : Order) (offset : Nat) (data : List Byte) : State :=
  s.request (writeAccesses .bulk o.area offset data (.bulk o.id))

/-- Withdraw an order's bulk transfer: its waiting pieces go, and the piece on the bus completes for nobody. -/
def State.dropBulk (s : State) (id : Nat) : State :=
  { s with exu := { s.exu with
      busWait := s.exu.busWait.filter fun a => a.owner != .bulk id
      bus := s.exu.bus.map fun b => if b.1.owner = .bulk id then ({ b.1 with owner := .nobody }, b.2) else b } }

/-- Whether pieces of an order's bulk transfer still wait. -/
def State.bulkWaiting (s : State) (id : Nat) : Bool := s.exu.busWait.any fun a => a.owner == .bulk id

/-! ## Looks and placements (R9, R10, R20, R21) -/

/-- A cause of a look arrives (R9): in RUNNING a look is begun, or the look-pending flag is set while one is under
way. -/
def State.causeLook (s : State) : State :=
  if s.exu.engine = .running then
    if s.exu.look = .idle then { s with exu := { s.exu with look := .due } }
    else { s with exu := { s.exu with lookPending := true } }
  else s

/-- A look ends; a pending one begins (R9). -/
def State.endLook (s : State) : State :=
  if s.exu.lookPending then { s with exu := { s.exu with look := .due, lookPending := false } }
  else { s with exu := { s.exu with look := .idle } }

/-- The order-chain part of a look (R10): with 16 orders in flight it ends without reading; else the chain pointer of
the cursor's block, or the order head field at the anchor, is read. -/
def State.lookChain (s : State) : State :=
  if Config.maxInFlight ≤ s.exu.inFlight.length then s.endLook
  else
    let off := match s.exu.cursor with
      | .block c _ => c
      | .anchor | .nowhere => 4
    State.request { s with exu := { s.exu with look := .pointer } } (readAccesses .order s.exu.area off 4 .lookPointer)

/-- A drain ends (R21): a look that waits for it goes on to the order chain. -/
def State.drainEnd (s : State) : State := if s.exu.look = .draining then s.lookChain else s

/-- A placement fails (R20): the report stays at the head, BACKLOG is set and placement is blocked. -/
def State.placeFails (s : State) : State :=
  (State.setEvent { s with exu := { s.exu with place := .idle, blocked := true } } .backlog).drainEnd

/-- The report head's bytes from byte 5 of its block: kind, subject, timestamp, four zero bytes, body (Table 11-3). -/
def Report.bytes (r : Report) : List Byte :=
  [byteOf r.kind.code] ++ le 2 r.subject ++ le 4 r.time.toNat ++ le 4 0 ++ pad 48 r.body

/-- The writes of the placement of the head report have begun, so it is no longer replaced (R21). DESIGN CHOICE, log
entry 25: they count as begun once they are requested, whether or not the arbiter has started the first. -/
def State.headBegun (s : State) : Bool :=
  match s.exu.place with
  | .body _ | .filled _ => true
  | .idle | .due | .pointer | .state _ => false

/-- A waiting report of the same kind and subject that a coalescing report replaces in place (R21 case 1): the new
queue, or none when there is no such report. `begun` protects the head. -/
def coalesce (r : Report) : (begun : Bool) → List Report → Option (List Report)
  | _, [] => none
  | begun, x :: xs =>
    if !begun && x.kind == r.kind && x.subject == r.subject then some (r :: xs)
    else (coalesce r false xs).map (x :: ·)

/-- Whether the Exchange Unit places reports on its own account now. -/
def State.placing (s : State) : Bool := s.exu.engine == .running && !s.exu.blocked

/-- A join or replacement while placement is blocked or the engine is not RUNNING sets BACKLOG (R21). -/
def State.backlogUnlessPlacing (s : State) : State := if s.placing then s else s.setEvent .backlog

/-- A report reaches the hold queue (R21). -/
def State.reportReaches (s : State) (r : Report) : State :=
  match (if r.kind.coalesces then coalesce r s.headBegun s.exu.hold else none) with
  | some l => State.backlogUnlessPlacing { s with exu := { s.exu with hold := l } }
  | none =>
    if Config.maxHold ≤ s.exu.hold.length then s.setEvent .reportLoss
    else
      let s := State.backlogUnlessPlacing { s with exu := { s.exu with hold := s.exu.hold ++ [r] } }
      if s.placing && s.exu.place == .idle then { s with exu := { s.exu with place := .due } } else s

/-! ## Area faults (R24, R25) -/

/-- The engine halts: looks, placements and answers end where they stood, their waiting accesses are discarded, bulk
transfers go on, and the scan timer stops. -/
def State.halt (s : State) (c : FaultCause) : State :=
  State.setEvent
    { s with exu := { s.exu with
        engine := .halted
        fault := c
        look := .idle
        place := .idle
        scanAt := none
        busWait := s.exu.busWait.filter fun a => a.cls == .bulk } } .areaFault

/-- An area fault: in RUNNING the engine halts with its cause, in HALTED only AREA_FAULT is set and the cause keeps
its first value. -/
def State.areaFault (s : State) (c : FaultCause) : State :=
  match s.exu.engine with
  | .running => s.halt c
  | .halted => s.setEvent .areaFault
  | .off | .resetting => s

/-! ## Taking a RUN (R6, R7) -/

/-- The header read at RUN is valid for an area of this size (R6). -/
def headerValid (size : Nat) (h : List Byte) : Bool :=
  let orders := leAt h 4 4
  let reports := leAt h 8 4
  size != 0 && leAt h 0 2 == 1
    && (orders == 0 || (orders % 64 == 0 && orders + 16 ≤ size))
    && (reports == 0 || (reports % 64 == 0 && reports + 64 ≤ size))

/-- The header read of a RUN ends (R7 steps 3 and 4). `ok` is false for a read error or a missing completion (R6). The
reports that wait stay in the hold queue until the first look or an earlier join (Table 1-5). -/
def State.headerRead (s : State) (ok : Bool) (h : List Byte) : State :=
  let withNudge := s.exu.runWait.getD false
  let s := { s with exu := { s.exu with runWait := none } }
  if ok && headerValid s.exu.area.size h then
    let period := min 1000 (leAt h 12 2)
    let s := { s with exu := { s.exu with
      cursor := .anchor
      reportPos := .anchor
      readPos := none
      lastTaken := none
      scanPeriod := period
      scanAt := if period = 0 then none else some (after s.now period)
      blocked := false
      place := .idle
      look := .idle
      lookPending := false
      fault := .none
      engine := .running } }
    if withNudge then s.causeLook else s
  else if s.exu.engine = .off then s.halt .headerInvalid
  else s.areaFault .headerInvalid

end Sys2Proof.Machine
end

