-- ==== Sys2Proof/Machine/Frames.lean ====
section
/-!
DEFINITION. The shared operations on frames: header fields, statistics, the buffer pool, costs, class queues, purges
and hold lists (chapters 2 to 4).
-/

namespace Sys2Proof.Machine

open Sys2Proof

/-! ## Header fields -/

/-- The destination MAC: the first six bytes. -/
def frameDest (f : List Byte) : Mac := macAt f 0
/-- The source MAC: the next six bytes. -/
def frameSource (f : List Byte) : Mac := macAt f 6
/-- The two bytes following the two MAC addresses (R32). -/
def frameType (f : List Byte) : Half := BitVec.ofNat 16 (beAt f 12 2)

/-! ## States of a record that the frame path reads -/

/-- The states in which a record is a source station, takes frames toward its radio and is a member of its profile
(R83). -/
def StaState.serving : StaState → Bool
  | .active | .watched | .offering | .moving | .withdrawing => true
  | .free | .left | .reserved => false

/-- The states R47 permits of a flow's station. -/
def StaState.flowHolder : StaState → Bool
  | .active | .watched | .offering | .moving | .withdrawing | .reserved => true
  | .free | .left => false

/-- The non-FREE record holding a MAC (R41: at most one). -/
def State.findMac (s : State) (m : Mac) : Option StaIx :=
  firstIx s.stt.recs fun r => r.state != .free && r.mac == m

/-- The load of the node (R85). -/
def State.load (s : State) : Nat :=
  (s.stt.recs.toList.filter fun r => r.state.serving || r.state == .reserved).length

/-- The peer record of a node number, if the peer table holds one (R125). -/
def State.findPeer (s : State) (n : Nat) : Option Peer :=
  (s.mlc.peers.toList.filterMap id).find? fun p => p.node.val == n

/-! ## Statistics (R43) -/

/-- The counters a drop or a completion moves. -/
inductive Counter where
  | sent (bytes : Nat) | length | unknownSource | gate | queue | pool | notHere | hold
deriving DecidableEq, Repr

def ClassStats.bump (c : ClassStats) : Counter → ClassStats
  | .sent n => { c with framesSent := satAdd c.framesSent 1, bytesSent := satAdd c.bytesSent n }
  | .length => { c with length := satAdd c.length 1 }
  | .unknownSource => { c with unknownSource := satAdd c.unknownSource 1 }
  | .gate => { c with gate := satAdd c.gate 1 }
  | .queue => { c with queue := satAdd c.queue 1 }
  | .pool => { c with pool := satAdd c.pool 1 }
  | .notHere => { c with notHere := satAdd c.notHere 1 }
  | .hold => { c with hold := satAdd c.hold 1 }

/-- Move a counter of a port's class. -/
def State.count (s : State) (p : PortId) (c : TClass) (k : Counter) : State :=
  let x := s.port p
  s.setPort p { x with stats := put x.stats (classIx c) ((x.stats.get (classIx c)).bump k) }

/-! ## The buffer pool (R40) -/

/-- Whether the pool grants a buffer to a class at this free count. -/
def grants (free : Nat) (c : TClass) : Bool :=
  match c with
  | .ctrl | .game => free != 0
  | .live | .normal | .bulk | .update => Config.poolReserve < free

def State.takeBuffer (s : State) : State := { s with frp := { s.frp with free := s.frp.free - 1 } }

def State.returnBuffers (s : State) (n : Nat) : State := { s with frp := { s.frp with free := s.frp.free + n } }

/-! ## Cost (R68, R69) -/

/-- The rate a copy will be sent at. -/
def State.copyRate (s : State) (p : PortId) (station : Option StaIx) (hop : Option Node) : Nat :=
  let own := (s.port p).config.rate
  match p with
  | .localPort | .wan => own
  | .radioA | .radioB =>
    clamp 1 4800 (match station with
      | some i => (s.sta i).rate
      | none => own)
  | .mesh =>
    clamp 1 4800 (match hop with
      | some n => match s.findPeer n.val with
        | some q => q.rate
        | none => own
      | none => own)

/-- The cost in microseconds of a copy of length L at rate R. -/
def copyCost (p : PortId) (overhead len rate : Nat) : Nat :=
  if portWired p then ceilDiv (8 * (len + 20)) rate else overhead + ceilDiv (8 * len) rate

/-! ## Game activity and activity bytes (R64, R104) -/

/-- The last-GAME time of a station becomes the present; a station in LEFT is not updated, nor a FREE record. -/
def State.touchGame (s : State) : Option StaIx → State
  | none => s
  | some i =>
    let r := s.sta i
    if r.state = .free ∨ r.state = .left then s else s.setSta i { r with lastGame := some s.now }

/-- Bytes added to a record's count of the minute; nothing is added to a FREE record (R104). -/
def State.addBytes (s : State) (i : StaIx) (n : Nat) : State :=
  let r := s.sta i
  if r.state = .free then s else s.setSta i { r with bytes := satAdd r.bytes n }

/-- What a completed enqueue reports: game activity for a GAME frame (R64) and activity bytes for a copy toward a
station's radio (R104). `ingress` is none for a frame of a block of the part. -/
def State.reportEnqueue (s : State) (len : Nat) (c : TClass) (source station : Option StaIx)
    (ingress : Option PortId) (listed : Bool) : State :=
  let s := if c = .game then
      State.touchGame (State.touchGame { s with flc := { s.flc with lastGame := some s.now } } source) station
    else s
  match station with
  | some i => if listed || c == .ctrl || ingress == some .localPort then s else s.addBytes i len
  | none => s

/-! ## Class queues (R38, R39, R70) -/

/-- A frame offered to a class queue: where it goes, and what the reports of its enqueue need. -/
structure Offered where
  frame : List Byte
  cls : TClass
  station : Option StaIx
  hop : Option Node
  broadcast : Bool
  source : Option StaIx
  ingress : Option PortId
  listed : Bool
deriving DecidableEq, Repr

/-- A copy joins the tail of its class queue with the rate and cost in force (R67); a copy joining a port that is READY
makes a transmit opportunity due (R72). -/
def State.join (s : State) (p : PortId) (f : Offered) : State :=
  let x := s.port p
  let rate := s.copyRate p f.station f.hop
  let copy : Copy := ⟨f.frame, f.cls, f.station, f.hop, f.broadcast, rate,
    copyCost p x.config.overhead f.frame.length rate⟩
  let k := classIx f.cls
  let s := s.setPort p { x with
    queues := put x.queues k (x.queues.get k ++ [copy])
    opportunity := x.opportunity || x.tx == .ready }
  s.reportEnqueue f.frame.length f.cls f.source f.station f.ingress f.listed

/-- The tests for the port's enable and its queue limit (R38 tests 1 and 2). -/
def State.queueRefuses (s : State) (p : PortId) (c : TClass) : Bool :=
  let x := s.port p
  !x.enabled || x.config.limits.get (classIx c) ≤ (x.queues.get (classIx c)).length

/-- Stage 7 for a copy that needs a buffer (R38): dropped QUEUE or POOL, or taken into the queue. The second part tells
whether it joined. -/
def State.enqueueNew (s : State) (p : PortId) (f : Offered) : State × Bool :=
  if s.queueRefuses p f.cls then (s.count p f.cls .queue, false)
  else if !grants s.frp.free f.cls then (s.count p f.cls .pool, false)
  else (s.takeBuffer.join p f, true)

/-- A frame leaving a hold list for a class queue, which already holds a buffer (R39). -/
def State.enqueueHeld (s : State) (p : PortId) (f : Offered) : State × Bool :=
  if s.queueRefuses p f.cls then ((s.count p f.cls .queue).returnBuffers 1, false)
  else (s.join p f, true)

/-- The held frames of a list are enqueued in order; the count tells how many joined. -/
def State.releaseHeld (p : PortId) (station : Option StaIx) (hop : Option Node) : List Held → State → State × Nat
  | [], s => (s, 0)
  | h :: hs, s =>
    let r := s.enqueueHeld p ⟨h.frame, h.cls, station, hop, false, h.source, some h.ingress, h.listed⟩
    let q := State.releaseHeld p station hop hs r.1
    (q.1, q.2 + if r.2 then 1 else 0)

/-! ## Purges (R71, R78) -/

/-- A port's queues without the copies `drop` names, with the deficits of emptied DRR classes at 0; and how many copies
were removed. -/
def Port.purge (x : Port) (drop : Copy → Bool) : Port × Nat :=
  let queues := x.queues.map fun q => q.filter fun c => !drop c
  let before := (x.queues.toList.map List.length).sum
  let rest := (queues.toList.map List.length).sum
  let deficits := Vector.ofFn fun k : Fin 4 =>
    if queues.get (classIx (drrClass k)) = [] then 0 else x.deficits.get k
  ({ x with queues := queues, deficits := deficits }, before - rest)

/-- Purge one port; the buffers return to the pool. -/
def State.purgePort (s : State) (p : PortId) (drop : Copy → Bool) : State :=
  let r := (s.port p).purge drop
  (s.setPort p r.1).returnBuffers r.2

/-- Purge every class queue of every port of the copies carrying a station's index. -/
def State.purgeStation (s : State) (i : StaIx) : State :=
  PortId.all.foldl (fun s p => s.purgePort p fun c => c.station == some i) s

/-! ## Hold lists (R38, R144) -/

/-- Held frames over all records. -/
def State.heldAll (s : State) : Nat :=
  (s.stt.recs.toList.map fun r => (r.held.getD []).length).sum

/-- A frame toward a station in MOVING or WITHDRAWING joins its hold list, after the hold limits and the pool. -/
def State.holdFrame (s : State) (i : StaIx) (h : Held) : State :=
  let r := s.sta i
  let list := r.held.getD []
  if Config.maxHeldStation ≤ list.length || Config.maxHeldAll ≤ s.heldAll then s.count (radioPort r.radio) h.cls .hold
  else if !grants s.frp.free h.cls then s.count (radioPort r.radio) h.cls .pool
  else s.takeBuffer.setSta i { r with held := some (list ++ [h]) }

/-! ## The address table (R41, R42) -/

/-- The entry holding a MAC. -/
def State.findAddr (s : State) (m : Mac) : Option (Fin 256) :=
  firstIx s.frp.addresses fun e => match e with
    | some x => x.mac == m
    | none => false

/-- Remove every entry that `drop` names. -/
def State.dropAddresses (s : State) (drop : AddrEntry → Bool) : State :=
  { s with frp := { s.frp with addresses := s.frp.addresses.map fun e => e.filter fun x => !drop x } }

/-- The index whose last-seen lies furthest in the past, the lowest of equals (R41 case 4). -/
def oldestAddr (now : Ms) (v : Vector (Option AddrEntry) 256) : Fin 256 :=
  (List.finRange 256).foldl (fun best i =>
    let a := match v.get i with
      | some e => age now e.lastSeen
      | none => 0
    let b := match v.get best with
      | some e => age now e.lastSeen
      | none => 0
    if b < a then i else best) 0

/-- Learning of a source MAC (R41). -/
def State.learn (s : State) (m : Mac) (p : PortId) : State :=
  match s.findMac m with
  | some _ => s
  | none =>
    let i := match s.findAddr m with
      | some i => i
      | none => match firstIx s.frp.addresses fun e => e.isNone with
        | some i => i
        | none => oldestAddr s.now s.frp.addresses
    { s with frp := { s.frp with addresses := put s.frp.addresses i (some ⟨m, p, s.now⟩) } }

end Sys2Proof.Machine
end

