-- ==== Sys2Proof/Machine/Flows.lean ====
section
/-!
DEFINITION. The shared operations of the Flow Classifier: the flow key, the flow table, the match list, arming and
the game conditions (chapter 3).
-/

namespace Sys2Proof.Machine

open Sys2Proof

/-! ## The flow key (R45, R46) -/

/-- What R45 reads from an IP frame. An IPv4 address fills the first 4 of the 16 bytes. -/
structure IpInfo where
  version : Byte
  protocol : Byte
  source : BitVec 128
  dest : BitVec 128
  sourcePort : Half
  destPort : Half
  dscp : BitVec 6
deriving DecidableEq, Repr

/-- An address of `n` bytes at `i`, in the first bytes of 16. -/
def addressAt (f : List Byte) (i n : Nat) : BitVec 128 := BitVec.ofNat 128 (beAt f i n * 256 ^ (16 - n))

/-- The two ports at `i`, when the protocol has ports, they lie inside the frame and `first` holds. -/
def portsAt (f : List Byte) (i protocol : Nat) (first : Bool) : Half × Half :=
  if first && (protocol == 6 || protocol == 17) && i + 4 ≤ f.length then
    (BitVec.ofNat 16 (beAt f i 2), BitVec.ofNat 16 (beAt f (i + 2) 2))
  else (0, 0)

/-- The IP header of a frame, or none for a non-IP frame (R45). The header begins at byte 14. -/
def ipInfo (f : List Byte) : Option IpInfo :=
  let b := fun i => (byteAt f (14 + i)).toNat
  if frameType f = 0x0800 then
    let header := b 0 % 16 * 4
    if b 0 / 16 = 4 ∧ 5 ≤ b 0 % 16 ∧ 14 + header ≤ f.length then
      let ports := portsAt f (14 + header) (b 9) (beAt f 20 2 % 8192 == 0)
      some ⟨4, byteOf (b 9), addressAt f 26 4, addressAt f 30 4, ports.1, ports.2, BitVec.ofNat 6 (b 1 / 4)⟩
    else none
  else if frameType f = 0x86DD then
    if b 0 / 16 = 6 ∧ 54 ≤ f.length then
      let ports := portsAt f 54 (b 6) true
      some ⟨6, byteOf (b 6), addressAt f 22 16, addressAt f 38 16, ports.1, ports.2,
        BitVec.ofNat 6 ((b 0 % 16 * 16 + b 1 / 16) / 4)⟩
    else none
  else none

/-- The normalized key: the numerically smaller endpoint is A; of equal endpoints the source (R46). -/
def IpInfo.key (x : IpInfo) : FlowKey :=
  if x.source < x.dest ∨ (x.source = x.dest ∧ x.sourcePort ≤ x.destPort) then
    ⟨x.version, x.protocol, x.source, x.sourcePort, x.dest, x.destPort⟩
  else ⟨x.version, x.protocol, x.dest, x.destPort, x.source, x.sourcePort⟩

/-- The 38 key bytes (R46). -/
def FlowKey.bytes (k : FlowKey) : List Byte :=
  [k.version, k.protocol] ++ be 16 k.addrA.toNat ++ be 2 k.portA.toNat ++ be 16 k.addrB.toNat ++ be 2 k.portB.toNat

/-- The key of 38 bytes at `i` of a message body. -/
def flowKeyAt (l : List Byte) (i : Nat) : FlowKey :=
  ⟨byteAt l i, byteAt l (i + 1), BitVec.ofNat 128 (beAt l (i + 2) 16), BitVec.ofNat 16 (beAt l (i + 18) 2),
    BitVec.ofNat 128 (beAt l (i + 20) 16), BitVec.ofNat 16 (beAt l (i + 36) 2)⟩

/-- The set index: the low 8 bits of the CRC-32 of the key bytes (R46). -/
def FlowKey.set (k : FlowKey) : Fin 256 := ⟨(crc32 k.bytes).toNat % 256, Nat.mod_lt _ (by decide)⟩

/-! ## The flow table (R47, R50 to R52) -/

/-- The way of a set that holds a key. -/
def wayOf (set : Vector (Option Flow) 4) (k : FlowKey) : Option (Fin 4) :=
  firstIx set fun w => match w with
    | some f => f.key == k
    | none => false

/-- The record of a key, if the table holds one. -/
def State.findFlow (s : State) (k : FlowKey) : Option Flow :=
  match wayOf (s.flc.sets.get k.set) k with
  | some w => (s.flc.sets.get k.set).get w
  | none => none

/-- The way whose record was seen longest ago, the lowest of equals (R50). -/
def oldestWay (now : Ms) (set : Vector (Option Flow) 4) : Fin 4 :=
  (List.finRange 4).foldl (fun best i =>
    let a := match set.get i with
      | some f => age now f.lastSeen
      | none => 0
    let b := match set.get best with
      | some f => age now f.lastSeen
      | none => 0
    if b < a then i else best) 0

def State.setFlowWay (s : State) (set : Fin 256) (w : Fin 4) (f : Option Flow) : State :=
  { s with flc := { s.flc with sets := put s.flc.sets set (put (s.flc.sets.get set) w f) } }

/-- Where a record of this key is placed: over a record of the same key (R63), in the lowest free way, or in place of
the oldest record (R50). A frame's own insertion follows a miss, so only the last two cases arise for it. -/
def placeWay (now : Ms) (set : Vector (Option Flow) 4) (k : FlowKey) : Fin 4 :=
  match wayOf set k with
  | some w => w
  | none => match firstIx set fun w => w.isNone with
    | some w => w
    | none => oldestWay now set

/-- Place a record in the set of its key (R50, R63). -/
def State.placeFlow (s : State) (f : Flow) : State :=
  s.setFlowWay f.key.set (placeWay s.now (s.flc.sets.get f.key.set) f.key) (some f)

/-- How many flow records satisfy `p`. -/
def State.countFlows (s : State) (p : Flow → Bool) : Nat :=
  (s.flc.sets.toList.map fun set => (set.toList.filter fun w => match w with
    | some f => p f
    | none => false).length).sum

/-- Remove every flow record that satisfies `p`. -/
def State.dropFlows (s : State) (p : Flow → Bool) : State :=
  { s with flc := { s.flc with sets := s.flc.sets.map fun set => set.map fun w => w.filter fun f => !p f } }

/-- The index of R51's limits for a flow class; CTRL has none and takes that of NORMAL. -/
def limitIx : TClass → Fin 5
  | .game => 0 | .live => 1 | .normal | .ctrl => 2 | .bulk => 3 | .update => 4

/-! ## Arm lists (R57 to R59) -/

/-- An arm list without its expired entries (R57). -/
def liveArms (now : Ms) (v : Vector (Option Arm) 4) : Vector (Option Arm) 4 :=
  v.map fun e => e.filter fun a => !reached now a.expiry

/-- The Flow Classifier examines a station's arm list: the expired entries are removed (R57). -/
def State.examineArms (s : State) (i : StaIx) : State :=
  let r := s.sta i
  if r.state = .free then s else s.setSta i { r with arms := liveArms s.now r.arms }

/-- How long an entry still has to run; none is shortest. -/
def armLeft (now : Ms) : Option Arm → Nat
  | none => 0
  | some a => elapsed a.expiry now

/-- The position of the entry with the earliest expiry, the lowest of equals (R58 case 3). -/
def earliestArm (now : Ms) (v : Vector (Option Arm) 4) : Fin 4 :=
  (List.finRange 4).foldl (fun best i => if armLeft now (v.get i) < armLeft now (v.get best) then i else best) 0

/-- The position R58 gives a group in an arm list without expired entries. -/
def armPosition (now : Ms) (v : Vector (Option Arm) 4) (g : Byte) : Fin 4 :=
  match firstIx v fun e => match e with
    | some a => a.group == g
    | none => false with
  | some k => k
  | none => match firstIx v fun e => e.isNone with
    | some k => k
    | none => earliestArm now v

/-- Arming a group for a station (R58). -/
def State.armStation (s : State) (i : StaIx) (g : Byte) (seconds : Nat) : State :=
  let s := s.examineArms i
  let r := s.sta i
  if r.state = .free then s
  else s.setSta i { r with arms := put r.arms (armPosition s.now r.arms g) (some ⟨g, after s.now (seconds * 1000)⟩) }

/-- The station is armed for a group (R59). -/
def Station.armed (r : Station) (g : Byte) : Bool :=
  r.arms.toList.any fun e => match e with
    | some a => a.group == g
    | none => false

/-! ## The match list (R53 to R56) -/

/-- What a search of the match list looks at: the frame's IP items and length, its ingress port, and its station (R48)
with the MAC stage 2 found there. `held` is false when the record of that index has since changed hands. -/
structure Search where
  ip : IpInfo
  len : Nat
  ingress : PortId
  station : Option StaIx
  mac : Mac
  held : Bool
deriving DecidableEq, Repr

/-- The first `n` bits of two addresses are equal. -/
def samePrefix (n : Nat) (a b : BitVec 128) : Bool := (a ^^^ b) >>> (128 - n) == 0

/-- An endpoint's address and port both pass a rule's tests (R54). -/
def Rule.endpoint (r : Rule) (version : Byte) (addr : BitVec 128) (port : Half) : Bool :=
  (match r.family with
    | .any => true
    | .ipv4 => version == 4 && samePrefix r.prefixLen addr r.addr
    | .ipv6 => version == 6 && samePrefix r.prefixLen addr r.addr)
  && (decide (r.portLow ≤ port ∧ port ≤ r.portHigh) != r.invert)

/-- The station condition of a rule (R54). -/
def State.selected (s : State) (q : Search) : Selector → Bool
  | .any => true
  | .mac m => q.station.isSome && q.mac == m
  | .profile p => match q.station with
    | some i => q.held && (s.sta i).profile == some p
    | none => false

/-- The stage condition of a rule (R54, R59), the arm list having been examined. -/
def State.stageHolds (s : State) (q : Search) (r : Rule) : Bool :=
  match r.stage with
  | .one => true
  | .two => match q.station with
    | some i => q.held && (s.sta i).armed r.armGroup
    | none => false

/-- A rule matches a frame (R54). -/
def State.ruleMatches (s : State) (q : Search) (r : Rule) : Bool :=
  (q.ip.protocol &&& r.protoMask) == (r.protoValue &&& r.protoMask)
  && (r.endpoint q.ip.version q.ip.source q.ip.sourcePort || r.endpoint q.ip.version q.ip.dest q.ip.destPort)
  && (q.ip.dscp &&& r.dscpMask) == (r.dscpValue &&& r.dscpMask)
  && (r.lengthLow ≤ q.len && q.len ≤ r.lengthHigh)
  && s.selected q r.selector
  && s.stageHolds q r

/-- The outcome of a search (R55). -/
inductive Verdict where
  | classed (c : TClass) (listed : Bool) (origin : Origin) | dropped
deriving DecidableEq, Repr

/-- Testing a stage-TWO rule examines the station's arm list (R57). -/
def State.examineFor (s : State) (q : Search) (r : Rule) : State :=
  match r.stage with
  | .one => s
  | .two => match q.station with
    | some i => if q.held then s.examineArms i else s
    | none => s

/-- The hit, the report and the arming of a matching rule (R55 steps 1 to 3, R56, R58). -/
def State.ruleHit (s : State) (q : Search) (i : Fin 64) (r : Rule) : State :=
  let hits := satAdd r.hits 1
  let s := { s with flc := { s.flc with rules := put s.flc.rules i { r with hits := hits } } }
  let s := if r.report then
      s.giveReport .ruleHit i.val
        (le 4 hits ++ [stationByte q.station, byteOf (portIx q.ingress).val] ++ q.ip.key.bytes)
    else s
  match q.station with
  | some k => if r.arm && q.held then s.armStation k r.armGroup r.armTime else s
  | none => s

/-- The search of the match list over the indexes given, in order (R55). -/
def State.searchFrom (q : Search) : List (Fin 64) → State → State × Verdict
  | [], s => (s, .classed .normal false .unmatched)
  | i :: is, s =>
    let r := s.flc.rules.get i
    if r.enabled then
      let s := s.examineFor q r
      if s.ruleMatches q r then
        let s := s.ruleHit q i r
        match r.response with
        | .terminal => (s, .classed r.cls r.listed (.rule i))
        | .drop => (s, .dropped)
        | .pass => State.searchFrom q is s
      else State.searchFrom q is s
    else State.searchFrom q is s

/-- The search of the whole match list. -/
def State.search (s : State) (q : Search) : State × Verdict := State.searchFrom q (List.finRange 64) s

/-! ## Game conditions (R65) -/

/-- The node is game-quiet. -/
def State.gameQuiet (s : State) : Bool :=
  match s.flc.lastGame with
  | none => true
  | some t => pastBy s.now t (s.flc.quiet * 60000)

/-- A station is gaming. -/
def State.gaming (s : State) (r : Station) : Bool :=
  match r.lastGame with
  | none => false
  | some t => reached s.now t && elapsed s.now t < 2000

end Sys2Proof.Machine
end

