-- ==== Sys2Proof/Machine/Records.lean ====
section
/-!
DEFINITION. The shared operations of the Station Table: gate, spent, membership, freeing and the record tests of the
later stages (chapters 5 and 6).
-/

namespace Sys2Proof.Machine

open Sys2Proof

/-! ## Gate and spent (R91, R107) -/

/-- The gate of a record holding profile `p` with spent flag `spent` (R91). -/
def State.gateOf (s : State) (p : Option ProfIx) (spent : Bool) : Gate :=
  match p with
  | none => .opened
  | some p =>
    let x := s.profile p
    if x.inUse then
      let st := x.states.get x.current
      if spent then Gate.lower st.level st.spentLevel else st.level
    else .opened

/-- The gate of a record is recomputed (R92). -/
def State.recomputeGate (s : State) (i : StaIx) : State :=
  let r := s.sta i
  s.setSta i { r with gate := s.gateOf r.profile r.spent }

/-- Today's allowance of a station under a profile (R107). -/
def State.allowance (s : State) (p : Option ProfIx) : Nat :=
  match p with
  | none => 1440
  | some p =>
    let x := s.profile p
    if x.inUse then x.allowances.get s.sck.weekday else 1440

/-- When a record is spent (R107). -/
def State.spentNow (s : State) (r : Station) : Bool :=
  s.sck.set && s.allowance r.profile < 1440 && s.allowance r.profile + r.bonus ≤ r.used

/-- The body of ALLOWANCE_SPENT: profile, used, allowance, bonus, weekday, day stamp and its mark (R107, R167). -/
def State.spentBody (s : State) (r : Station) : List Byte :=
  [profileByte r.profile] ++ le 2 r.used ++ le 2 (s.allowance r.profile) ++ le 2 r.bonus
    ++ [byteOf s.sck.weekday.val] ++ le 4 (r.day.getD 0).toNat ++ [flagByte r.day.isSome]

/-- A spent-change event for the profile of a record, if it has one (R107). -/
def State.spentChange (s : State) : Option ProfIx → State
  | none => s
  | some p => s.triggerFor p .spentChange

/-- The spent flag of a record is recomputed; a change recomputes its gate, sends a spent-change event and, on becoming
spent, gives ALLOWANCE_SPENT (R107). -/
def State.recomputeSpent (s : State) (i : StaIx) : State :=
  let r := s.sta i
  let b := s.spentNow r
  if b = r.spent then s
  else
    let s := s.setSta i { r with spent := b, gate := s.gateOf r.profile b }
    let s := s.spentChange r.profile
    if b then s.giveReport .allowanceSpent i.val (s.spentBody r) else s

/-- An operation on every record that satisfies `p`, in index order. -/
def State.eachSta (s : State) (p : Station → Bool) (f : State → StaIx → State) : State :=
  (List.finRange 128).foldl (fun s i => if p (s.sta i) then f s i else s) s

/-- The spent flag of every non-FREE record is recomputed. -/
def State.recomputeAllSpent (s : State) : State := s.eachSta (fun r => r.state != .free) State.recomputeSpent

/-! ## Freeing (R94) -/

/-- The membership notice of a record that leaves its profile's stations (R84). -/
def State.leaveProfile (s : State) (r : Station) : State :=
  if r.state.serving then s.membership r.profile else s

/-- Freeing a record (R94). -/
def State.freeStation (s : State) (i : StaIx) : State :=
  let r := s.sta i
  let s := s.purgeStation i
  let s := s.returnBuffers (r.held.getD []).length
  let s := s.dropFlows fun f => f.station == some i
  let s := s.leaveProfile r
  s.setSta i Station.free

/-! ## Tests of the later stages (R95) -/

/-- The index still holds the MAC in a state that `p` names. -/
def State.stillHeld (s : State) (i : StaIx) (m : Mac) (p : StaState → Bool) : Bool :=
  let r := s.sta i
  r.mac == m && p r.state

/-- The source station of a frame under ingress that still passes the test of R95. -/
def State.liveSource (s : State) (x : Ingress) : Option StaIx :=
  x.source.filter fun i => s.stillHeld i (frameSource x.frame) StaState.serving

/-- A gate passes a frame of this class and LISTED flag (R35). -/
def Gate.passes : Gate → TClass → Bool → Bool
  | .opened, _, _ => true
  | .noGame, c, _ => c != .game
  | .listedOnly, _, listed => listed
  | .blocked, _, _ => false

/-- The lowest FREE index. -/
def State.freeIndex (s : State) : Option StaIx := firstIx s.stt.recs fun r => r.state == .free

/-- A record leaves FREE: any address entry holding its MAC is removed in the same step (R41). -/
def State.enter (s : State) (i : StaIx) (r : Station) : State :=
  (s.dropAddresses fun e => e.mac == r.mac).setSta i r

/-- The day stamp of a record made now (R87). -/
def State.stampNow (s : State) : Option Word := if s.sck.set then some s.sck.day else none

/-- The signal average after a sample in dBm (R90, R139). -/
def signalStep (avg : Option Int) (sample : Int) : Int :=
  let x := 16 * clampInt (-127) 0 sample
  match avg with
  | none => x
  | some a => a + Int.fdiv (x - a) 8

/-- Back-off of an attempt that ended without a move (R137). -/
def Station.backOff (r : Station) (now : Ms) : Station :=
  { r with nextQuery := after now (r.requery * 1000), requery := min 64 (2 * r.requery) }

end Sys2Proof.Machine
end

