-- ==== Sys2Proof/Machine/Airtime.lean ====
section
/-!
DEFINITION. The Airtime Scheduler of a port: the GAME bucket, the deficit round robin, the transmit opportunity and the
reports of the port's device (chapter 4).
-/

namespace Sys2Proof.Machine

open Sys2Proof

/-- The GAME bucket is advanced (R75). -/
def Port.advance (x : Port) (us : Us) : Port :=
  let t := min (us - x.lastAdvance).toNat 1000000 * x.config.share + x.remainder
  let b := x.bucket + (t / 1000 : Nat)
  if (x.config.depth : Int) < b then { x with bucket := x.config.depth, remainder := 0, lastAdvance := us }
  else { x with bucket := b, remainder := t % 1000, lastAdvance := us }

/-- A port's queue of a class. -/
def Port.queue (x : Port) (c : TClass) : List Copy := x.queues.get (classIx c)

/-- The head of a class queue is taken from it. -/
def Port.pop (x : Port) (c : TClass) : Option (Copy × Port) :=
  match x.queue c with
  | [] => none
  | h :: rest => some (h, { x with queues := put x.queues (classIx c) rest })

/-- A GAME head is chosen and its cost charged, not below -65535 (R76). -/
def Port.chooseGame (x : Port) : Option (Copy × Port) :=
  (x.pop .game).map fun r => (r.1, { r.2 with bucket := max (-65535) (r.2.bucket - (r.1.cost : Int)) })

/-- The pointer moves to the next class and the quantum-added flag becomes false. -/
def Port.moveOn (x : Port) : Port := { x with pointer := x.pointer + 1, quantumAdded := false }

/-- The credit of the pointer's class once its quantum of this visit has been added (R77 step 2). -/
def Port.credited (x : Port) : Port :=
  if x.quantumAdded then x
  else { x with
    deficits := put x.deficits x.pointer (x.deficits.get x.pointer + x.config.quanta.get x.pointer)
    quantumAdded := true }

/-- One repetition of the round (R77 steps 1 to 4): the copy chosen, if this one chose a copy. A chosen copy that
leaves its queue empty leaves the deficit 0 (R78). -/
def Port.drrVisit (x : Port) : Port × Option Copy :=
  match x.queue (drrClass x.pointer) with
  | [] => ({ x with deficits := put x.deficits x.pointer 0 }.moveOn, none)
  | h :: rest =>
    let y := x.credited
    let d := y.deficits.get y.pointer
    if h.cost ≤ d then
      ({ y with
          queues := put y.queues (classIx (drrClass y.pointer)) rest
          deficits := put y.deficits y.pointer (if rest = [] then 0 else d - h.cost) }, some h)
    else (y.moveOn, none)

/-- The round run to its end, with at most the number of repetitions given. -/
def Port.drrRound : Nat → Port → Port × Option Copy
  | 0, x => (x, none)
  | n + 1, x =>
    let r := x.drrVisit
    match r.2 with
    | some c => (r.1, some c)
    | none => Port.drrRound n r.1

/-- Repetitions that suffice: every pass of four adds at least 1 microsecond to a class with a copy, and no cost exceeds
17384 (R68, R77). -/
def drrFuel : Nat := 4 * 17386

/-- One of LIVE, NORMAL, BULK and UPDATE has a copy. -/
def Port.anyDrr (x : Port) : Bool :=
  !(x.queue .live).isEmpty || !(x.queue .normal).isEmpty || !(x.queue .bulk).isEmpty || !(x.queue .update).isEmpty

/-- Steps 4 and 5 of the choice: the round, or else the GAME head without credit (R73). -/
def Port.chooseRest (x : Port) : Port × Option Copy :=
  if x.anyDrr then Port.drrRound drrFuel x
  else match x.chooseGame with
    | some (c, y) => (y, some c)
    | none => (x, none)

/-- Steps 2 to 6 of the choice at a transmit opportunity, the bucket having been advanced (R73). -/
def Port.choose (x : Port) : Port × Option Copy :=
  match x.pop .ctrl with
  | some (c, y) => (y, some c)
  | none =>
    if 0 ≤ x.bucket then
      match x.chooseGame with
      | some (c, y) => (y, some c)
      | none => x.chooseRest
    else x.chooseRest

/-- The next-hop MAC of a transmit request: what the peer table holds for the copy's next hop now (R74, R127). -/
def State.hopMac (s : State) (c : Copy) : Option Mac :=
  match c.hop with
  | some n => (s.findPeer n.val).map Peer.mac
  | none => none

/-- A port's transmit opportunity (R73, R74): the port afterwards. -/
def State.opportunityOf (s : State) (x : Port) : Port :=
  let r := (x.advance s.sck.us).choose
  match r.2 with
  | some c => { r.1 with tx := .sending, onLink := some ⟨c, s.hopMac c⟩, opportunity := false }
  | none => { r.1 with tx := .ready, opportunity := false }

/-- TRANSMIT_OPPORTUNITY (R72, R73). -/
def execTransmitOpportunity (p : PortId) (s : State) : Result :=
  .next (
    let x := s.port p
    if x.opportunity then
      if x.enabled && x.tx == .ready then s.setPort p (s.opportunityOf x)
      else s.setPort p { x with opportunity := false }
    else s)

/-- LINK_READY (R72): a port that is NOT_READY becomes READY, with a transmit opportunity due when it is enabled. -/
def execLinkReady (p : PortId) (s : State) : Result :=
  .next (
    let x := s.port p
    match x.tx with
    | .notReady => s.setPort p { x with tx := .ready, opportunity := x.enabled }
    | .ready | .sending => s)

/-- TRANSMIT_COMPLETION (R40, R72, R74, R80). -/
def execTransmitCompletion (p : PortId) (s : State) : Result :=
  .next (
    let x := s.port p
    match x.tx with
    | .sending =>
      let t := s.setPort p { x with tx := .notReady, onLink := none }
      match x.onLink with
      | some l => (t.count p l.copy.cls (.sent l.copy.frame.length)).returnBuffers 1
      | none => t
    | .notReady | .ready =>
      if x.ghosts = 0 then s else (s.setPort p { x with ghosts := x.ghosts - 1 }).returnBuffers 1)

end Sys2Proof.Machine
end

