-- ==== Sys2Proof/Machine/Programs.lean ====
section
/-!
DEFINITION. The shared operations of the Profile Engine: windows, conditions and the evaluation of a program
(chapter 7).
-/

namespace Sys2Proof.Machine

open Sys2Proof

/-- The window test of R112 at a weekday and minute. -/
def Window.openAt (w : Window) (d : Fin 7) (m : Nat) : Bool :=
  if w.start < w.stop then w.mask.getLsbD d.val && w.start ≤ m && m < w.stop
  else if w.stop < w.start then
    (w.mask.getLsbD d.val && w.start ≤ m) || (w.mask.getLsbD ((d.val + 6) % 7) && m < w.stop)
  else false

/-- A window of the profiles or of the stager is open at the given calendar; every window is closed while the clock is
unset (R99, R112). -/
def State.windowOpen (s : State) (w : Window) (cal : Fin 7 × Nat) : Bool := s.sck.set && w.openAt cal.1 cal.2

/-- The calendar an evaluation uses: the one its event carries, else the clock's (R114). DESIGN CHOICE, log entry 14: the
event of an unset minute carries none (R99), so its evaluation, where a SET_CLOCK has set the clock meanwhile, uses the
clock's values of its own moment. -/
def State.calendarOf (s : State) (e : Option ClockEvent) : Fin 7 × Nat :=
  match e.bind ClockEvent.calendar with
  | some c => (c.weekday, c.minute)
  | none => (s.sck.weekday, s.sck.minute)

/-- At least one of the profile's stations is spent (R84, R114). -/
def State.anySpent (s : State) (p : ProfIx) : Bool :=
  s.stt.recs.toList.any fun r => r.state.serving && r.profile == some p && r.spent

/-- The evaluations a cause gives with DAY_START true (Table 7-4). -/
def Cause.dayStart : Cause → Bool
  | .rollover | .setRollover => true
  | _ => false

/-- The value of a condition when an evaluation begins (R114). -/
def State.condHolds (s : State) (t : Trigger) (x : Profile) : Cond → Bool
  | .wOpen w => s.windowOpen (x.windows.get w) (s.calendarOf t.event)
  | .wClosed w => !s.windowOpen (x.windows.get w) (s.calendarOf t.event)
  | .paused => x.paused
  | .notPaused => !x.paused
  | .dayStart => t.cause.dayStart
  | .anySpent => s.anySpent t.profile
  | .noneSpent => !s.anySpent t.profile

/-- The first transition of a state, in list order, that is enabled and whose condition holds (R116 step 1). -/
def firstEligible (holds : Cond → Bool) (x : ProgState) : Option (Fin 4) :=
  firstIx x.transitions fun t => t.enabled && holds t.cond

/-- The body of PROFILE_STATE (R118). -/
def stateBody (x : Profile) (reached began : Fin 6) (moves : Nat) (c : Cause) : List Byte :=
  let st := x.states.get reached
  [byteOf reached.val, byteOf began.val, byteOf moves, byteOf c.code, byteOf st.level.code, byteOf st.spentLevel.code]

/-- The body of PROFILE_CYCLE (R118). -/
def cycleBody (reached began : Fin 6) (k : Fin 4) (dest : Fin 6) (c : Cause) : List Byte :=
  [byteOf reached.val, byteOf began.val, byteOf k.val, byteOf dest.val, byteOf c.code]

/-- The moves of an evaluation (R116): `left` moves are still allowed, and the result is the state with its reports and
the program state reached. -/
def moves (t : Trigger) (x : Profile) (holds : Cond → Bool) (began : Fin 6) :
    (left : Nat) → (cur : Fin 6) → State → State × Fin 6
  | left, cur, s =>
    match firstEligible holds (x.states.get cur) with
    | none => (s, cur)
    | some k =>
      let dest := ((x.states.get cur).transitions.get k).dest
      match left with
      | 0 => (s.giveReport .profileCycle t.profile.val (cycleBody cur began k dest t.cause), cur)
      | left + 1 =>
        moves t x holds began left dest
          (s.giveReport .profileState t.profile.val (stateBody x dest began (Config.maxMoves - left) t.cause))
  termination_by structural left => left

/-- One evaluation of a profile that is in use (R116). -/
def State.evaluate (s : State) (t : Trigger) : State :=
  let x := s.profile t.profile
  let r := moves t x (s.condHolds t x) x.current Config.maxMoves x.current s
  let s := r.1.setProfile t.profile { x with current := r.2 }
  if r.2 = x.current then s else s.notice (.stateChange t.profile)

/-! ## Triggers (R115, R119) -/

/-- The way on which a trigger of Table 7-4 reaches the Profile Engine. -/
def Cause.path : Cause → TriggerPath
  | .minute | .rollover | .setRollover | .clockChange => .clock
  | .spentChange | .membership | .grant => .station
  | .setProfile | .setProgram | .pause | .resume | .restart => .order

/-- The oldest trigger of a way, and the triggers without it. The triggers stand in the order in which they were given.
Those of one way reach the Profile Engine in that order. A trigger of an order, which is the Profile Engine's own, is
there at once: what is given after it reaches the engine after it, and what was given before it may still be on its way.
DEDUCED, log entry 15. -/
def takeTrigger (path : TriggerPath) : List Trigger → Option (Trigger × List Trigger)
  | [] => none
  | t :: rest =>
    if t.cause.path = path then some (t, rest)
    else if t.cause.path = .order then none
    else (takeTrigger path rest).map fun r => (r.1, t :: r.2)

/-- The trigger that reached the Profile Engine next (R115, R119): the oldest of the way `free` where there is one to
take, else the one given first. While all triggers are of one way that is the one given first. -/
def nextTrigger (free : TriggerPath) : List Trigger → Option (Trigger × List Trigger)
  | [] => none
  | t :: rest =>
    if rest.all fun x => x.cause.path = t.cause.path then some (t, rest)
    else some ((takeTrigger free (t :: rest)).getD (t, rest))

/-- The free value of log entry 15: the way whose trigger is taken next. -/
def State.freeWay (s : State) : TriggerPath :=
  match Config.wayTaken s.pfe.taken with
  | 0 => .station
  | 1 => .clock
  | 2 => .order

/-- The answer an order's evaluation gives, with the state the profile then stands in. -/
def State.reply (s : State) (p : ProfIx) : Option Reply → State
  | none => s
  | some r => s.finish r.order .ok 0 (r.before ++ [byteOf (s.profile p).current.val] ++ r.after)

/-- The return of a profile to its initial state by SET_PROGRAM or RESTART_PROFILE (R113, R117, R118). -/
def State.toInitial (s : State) (p : ProfIx) (x : Profile) (c : Cause) : State :=
  let began := x.current
  let y := { x with current := x.initial }
  let s := s.setProfile p y
  if x.initial = began then s
  else (s.giveReport .profileState p.val (stateBody y x.initial began 0 c)).notice (.stateChange p)

end Sys2Proof.Machine
end

