-- ==== Sys2Proof/Machine/Messages.lean ====
section
/-!
DEFINITION. The shared operations of the Mesh Link Controller: building and sending a message, the form of each
message body, and peer presence (chapter 8, section 11.5).
-/

namespace Sys2Proof.Machine

open Sys2Proof

/-! ## Message kinds (R171) -/

def kBeacon : Nat := 1
def kSignalQuery : Nat := 2
def kSignalReport : Nat := 3
def kOffer : Nat := 4
def kAccept : Nat := 5
def kDecline : Nat := 6
def kConfirm : Nat := 7
def kSettle : Nat := 8
def kSettleAck : Nat := 9
def kWithdraw : Nat := 10
def kWithdrawAck : Nat := 11
def kChunkWant : Nat := 12
def kChunkData : Nat := 13
def kChunkNone : Nat := 14

/-- The class a message is sent with (Table 8-2). -/
def messageClass (kind : Nat) : TClass := if kind = kChunkData then .update else .ctrl

/-- The mesh is enabled (R124). -/
def State.meshEnabled (s : State) : Bool := s.mlc.set && s.mlc.enable

/-- The frame of a message (R128, R171): destination, own MAC, ether type, header, body, padded to 60 bytes. -/
def State.messageFrame (s : State) (dest : Mac) (receiver kind : Nat) (body : List Byte) : List Byte :=
  let f := macBytes dest ++ macBytes s.mlc.mac ++ be 2 s.mlc.etherType.toNat
    ++ [1, byteOf kind, byteOf s.mlc.node.val, byteOf receiver] ++ be 2 s.mlc.seq.toNat ++ be 2 body.length ++ body
  if f.length < 60 then pad 60 f else f

/-- The outcome a request to send is given (R128). -/
inductive Sent where
  | joined | dropped | notSent
deriving DecidableEq, Repr

/-- The copy of a built message joins MESH, with the class of its kind (R128 step 4). -/
def State.sendFrame (s : State) (hop : Option Node) (kind : Nat) (frame : List Byte) : State × Sent :=
  let s := { s with mlc := { s.mlc with seq := s.mlc.seq + 1 } }
  let r := s.enqueueNew .mesh ⟨frame, messageClass kind, none, hop, false, none, none, false⟩
  (r.1, if r.2 then .joined else .dropped)

/-- Send a message to one peer (R128). -/
def State.send (s : State) (dest : Node) (kind : Nat) (body : List Byte) : State × Sent :=
  if s.meshEnabled then
    match s.findPeer dest.val with
    | some q => s.sendFrame (some dest) kind (s.messageFrame q.mac dest.val kind body)
    | none => (s, .notSent)
  else (s, .notSent)

/-- Send a message to one peer, whatever the outcome. -/
def State.sendTo (s : State) (dest : Node) (kind : Nat) (body : List Byte) : State := (s.send dest kind body).1

/-- Send a BEACON to all (R130). -/
def State.sendBeacon (s : State) (body : List Byte) : State :=
  if s.meshEnabled then (s.sendFrame none kBeacon (s.messageFrame broadcastMac 15 kBeacon body)).1 else s

/-! ## The form test (R129, R171) -/

/-- The body length chapter 11 gives for a kind, the counts it holds being in range; none when no length fits. -/
def bodyLength (kind : Nat) (b : List Byte) : Option Nat :=
  let at_ := fun i => (byteAt b i).toNat
  match kind with
  | 1 => some 12
  | 2 => some 8
  | 3 => some 10
  | 4 => if at_ 22 ≤ 4 ∧ at_ 23 ≤ 16 then some (24 + 5 * at_ 22 + 40 * at_ 23) else none
  | 5 | 7 | 10 | 11 => some 10
  | 6 => some 11
  | 8 => some 17
  | 9 => some 5
  | 12 => if 1 ≤ at_ 4 ∧ at_ 4 ≤ 8 then some (5 + 2 * at_ 4) else none
  | 13 => if 1 ≤ beAt b 7 2 ∧ beAt b 7 2 ≤ 1024 then some (9 + beAt b 7 2) else none
  | 14 => if 1 ≤ at_ 5 ∧ at_ 5 ≤ 8 then some (6 + 2 * at_ 5) else none
  | _ => none

/-- The form test of R129 for a frame. -/
def formOk (f : List Byte) : Bool :=
  let kind := (byteAt f 15).toNat
  let receiver := (byteAt f 17).toNat
  let n := beAt f 20 2
  22 ≤ f.length && byteAt f 14 == 1 && 1 ≤ kind && kind ≤ 14 && 22 + n ≤ f.length
    && bodyLength kind ((f.drop 22).take n) == some n
    && !(receiver == 15 && kind != kBeacon) && !(8 ≤ receiver && receiver ≤ 14)

/-! ## The peer table and presence (R125, R131) -/

/-- The position of a node number in the peer table. -/
def State.peerAt (s : State) (n : Nat) : Option (Fin 7) :=
  firstIx s.mlc.peers fun q => match q with
    | some p => p.node.val == n
    | none => false

def State.putPeer (s : State) (k : Fin 7) (q : Option Peer) : State :=
  { s with mlc := { s.mlc with peers := put s.mlc.peers k q } }

/-- A peer is PRESENT. -/
def State.peerPresent (s : State) (n : Node) : Bool :=
  match s.findPeer n.val with
  | some q => q.present
  | none => false

/-- The causes of a presence change (Table 11-1). -/
inductive PresenceCause where
  | heard | silent | meshOff | cleared
deriving DecidableEq, Repr

def PresenceCause.code : PresenceCause → Nat
  | .heard => 0 | .silent => 1 | .meshOff => 2 | .cleared => 3

/-- The body of PEER_CHANGE (R131): presence, cause, advertised load, the three flags, both image ids. -/
def peerBody (q : Peer) (present : Bool) (c : PresenceCause) : List Byte :=
  [flagByte present, byteOf c.code, byteOf q.load, flagByte q.hold, flagByte q.staging, flagByte q.stagedComplete]
    ++ le 4 q.stagingId.toNat ++ le 4 q.activeId.toNat

/-- A change of a peer's presence (R131): the last sequence is cleared when it becomes ABSENT, notices go to the
Handoff Controller and the Update Stager, and PEER_CHANGE is given. -/
def State.setPresence (s : State) (k : Fin 7) (q : Peer) (present : Bool) (c : PresenceCause) : State :=
  let q := { q with present := present, lastSeq := if present then q.lastSeq else none }
  let s := s.putPeer k (some q)
  let s := { s with mlc := { s.mlc with presence := s.mlc.presence ++ [(q.node, present)] } }
  s.giveReport .peerChange q.node.val (peerBody q present c)

/-- Every PRESENT peer becomes ABSENT with cause MESH_OFF (R124). DESIGN CHOICE, log entry 27: the peers are taken in the
order of their positions, 0 to 6, and their notices and reports go out in it. -/
def State.meshOff (s : State) : State :=
  (List.finRange 7).foldl (fun s k => match s.mlc.peers.get k with
    | some q => if q.present then s.setPresence k q false .meshOff else s
    | none => s) s

/-- A new handoff id (R133). -/
def State.newHandoffId (s : State) : State × HandoffId :=
  let c := s.mlc.handoffCount + 1
  ({ s with mlc := { s.mlc with handoffCount := c } }, ⟨byteOf s.mlc.node.val, c⟩)

/-- A message body that carries a handoff id and a MAC. -/
def idMacBody (id : HandoffId) (m : Mac) : List Byte := id.beBytes ++ macBytes m

end Sys2Proof.Machine
end

