-- ==== Sys2Proof/Machine/Staging.lean ====
section
/-!
DEFINITION. The shared operations of the Flash Controller and the Update Stager: flash requests, slots and manifests,
chunk writes, the fetch and the serve list, and the end of an install hold (chapter 10, section 11.6).
-/

namespace Sys2Proof.Machine

open Sys2Proof

/-! ## Flash requests (R153) -/

/-- The waiting request to start next: the oldest of the highest class present. -/
def nextFlash (l : List FlashOp) : Option (FlashOp × List FlashOp) :=
  match takeFirst (fun o => o.cls == .slotRecord) l with
  | some r => some r
  | none =>
    match takeFirst (fun o => o.cls == .readFlash) l with
    | some r => some r
    | none =>
      match takeFirst (fun o => o.cls == .serve) l with
      | some r => some r
      | none => takeFirst (fun _ => true) l

/-- When no operation is running and the device is not stalled by a timeout, the controller starts one. -/
def State.startFlash (s : State) : State :=
  match s.fls.op with
  | some _ => s
  | none =>
    if s.fls.stalled then s
    else match nextFlash s.fls.waiting with
      | none => s
      | some (o, rest) => { s with fls := { s.fls with op := some (o, s.sck.us), waiting := rest } }

/-- Request a flash operation. -/
def State.flashRequest (s : State) (o : FlashOp) : State :=
  State.startFlash { s with fls := { s.fls with waiting := s.fls.waiting ++ [o] } }

def flashRead (c : FlashClass) (addr len : Nat) (w : FlashOwner) : FlashOp := ⟨c, .read, addr, len, [], w⟩
def flashErase (c : FlashClass) (addr : Nat) (w : FlashOwner) : FlashOp := ⟨c, .erase, addr, 4096, [], w⟩
def flashProgram (c : FlashClass) (addr : Nat) (data : List Byte) (w : FlashOwner) : FlashOp :=
  ⟨c, .program, addr, data.length, data, w⟩

/-- Withdraw the waiting requests an owner test names; the operation under way finishes for nobody. -/
def State.dropFlash (s : State) (p : FlashOwner → Bool) : State :=
  { s with fls := { s.fls with
      waiting := s.fls.waiting.filter fun o => !p o.owner
      op := s.fls.op.map fun o => if p o.1.owner then ({ o.1 with owner := .nobody }, o.2) else o } }

/-! ## Slots and the slot record (R154, R155, R172) -/

/-- A slot's base address (R154). -/
def slotBase : Slot → Nat
  | .a => 0x100000 | .b => 0x880000

/-- The slot record sector (Table 10-1). -/
def slotRecordAddr : Nat := 0x0FF000

/-- The slot the slot record copy does not name active (R154). -/
def State.stagingSlot (s : State) : Slot := s.fls.slot.active.other

/-- The sector of chunk k of a slot (R154). -/
def chunkAddr (sl : Slot) (k : Nat) : Nat := slotBase sl + (2 + k) * 4096

/-- The image id of a slot. -/
def SlotRecord.idOf (r : SlotRecord) : Slot → Word
  | .a => r.idA | .b => r.idB

/-- The active image id. -/
def State.activeId (s : State) : Word := s.fls.slot.idOf s.fls.slot.active

/-- The 16 bytes of a slot record (R172). -/
def SlotRecord.bytes (r : SlotRecord) : List Byte :=
  let b := [byteOf r.active.code, byteOf r.fallback.code, flagByte r.trial, byteOf r.remaining]
    ++ le 4 r.idA.toNat ++ le 4 r.idB.toNat
  b ++ le 4 (crc32 b).toNat

/-- The record that 16 bytes of flash hold, or none when it is taken as bad (R155, R172). -/
def slotRecordOf (b : List Byte) : Option SlotRecord :=
  match Slot.ofCode (byteAt b 0).toNat, Slot.ofCode (byteAt b 1).toNat with
  | some active, some fallback =>
    let state := (byteAt b 2).toNat
    let remaining := (byteAt b 3).toNat
    if BitVec.ofNat 32 (leAt b 12 4) = crc32 (pad 12 b) ∧ active ≠ fallback ∧ state ≤ 1 ∧ remaining ≤ 3
        ∧ ¬(state = 0 ∧ remaining ≠ 0) then
      some ⟨active, fallback, state == 1, remaining, BitVec.ofNat 32 (leAt b 4 4), BitVec.ofNat 32 (leAt b 8 4)⟩
    else none
  | _, _ => none

/-! ## Manifests (R156, R172) -/

/-- The size in bytes of a manifest of `count` chunks. -/
def manifestSize (count : Nat) : Nat := 16 + 4 * count

/-- The count and image id of a manifest's first 12 bytes are ones a manifest may hold (R172). -/
def manifestHeadOk (b : List Byte) : Bool :=
  1 ≤ leAt b 8 2 && leAt b 8 2 ≤ Config.maxChunks && leAt b 0 4 != 0

/-- The valid manifest that a sequence of bytes holds (R156, R172). -/
def manifestOf (b : List Byte) : Option Manifest :=
  let count := leAt b 8 2
  let length := leAt b 4 4
  if manifestHeadOk b ∧ 1 ≤ length ∧ length ≤ 7856128 ∧ count = ceilDiv length 4096
      ∧ BitVec.ofNat 32 (leAt b (12 + 4 * count) 4) = crc32 (pad (12 + 4 * count) b) then
    some ⟨BitVec.ofNat 32 (leAt b 0 4), length, count,
      (List.range count).map fun k => BitVec.ofNat 32 (leAt b (12 + 4 * k) 4)⟩
  else none

/-- The bytes chunk k of a manifest holds (R156). -/
def Manifest.chunkLen (m : Manifest) (k : Nat) : Nat :=
  if k + 1 = m.count then m.length - 4096 * (m.count - 1) else 4096

/-- The CRC list entry of chunk k. -/
def Manifest.crc (m : Manifest) (k : Nat) : Word := m.crcs.getD k 0

/-- The image id of the staging manifest, or 0 without one. -/
def State.stagingId (s : State) : Word :=
  match s.ups.manifest with
  | some m => m.id
  | none => 0

/-- How many chunks are PRESENT. -/
def State.chunksHeld (s : State) : Nat := (s.ups.map.filter fun c => c == .present).length

/-! ## Small updates of the stager -/

def State.setWork (s : State) (w : UpsWork) : State := { s with ups := { s.ups with work := w } }

def State.setChunk (s : State) (k : Nat) (c : ChunkState) : State :=
  { s with ups := { s.ups with map := s.ups.map.set k c } }

def State.setBuf (s : State) (b : Fin 4) (x : Option Buf) : State :=
  { s with ups := { s.ups with bufs := put s.ups.bufs b x } }

def State.setFetch (s : State) (f : Option Fetch) : State := { s with ups := { s.ups with fetch := f } }

/-- An install hold is in force (R151, R164). -/
def State.holding (s : State) : Bool := s.ups.state == .hold

/-- The order of an id that is still in flight. -/
def State.orderOf (s : State) (id : Nat) : Option Order := s.exu.inFlight.find? fun o => o.id == id

/-- The order the stager is working ends. -/
def State.endWork (s : State) (id : Nat) (st : Status) (detail : Byte) (results : List Byte) : State :=
  (s.setWork .idle).finish id st detail results

/-! ## Source selection and the fetch (R162) -/

/-- A peer qualifies as a source of an image. -/
def Peer.offers (q : Peer) (id : Word) : Bool :=
  q.present && ((q.stagedComplete && q.stagingId == id) || q.activeId == id)

/-- The nodes in rising order after a source, wrapping round to the lowest, the source itself last. -/
def nodesAfter : Option Node → List Nat
  | none => List.range 8
  | some n => (List.range 8).map fun k => (n.val + 1 + k) % 8

/-- The first peer that qualifies after the present source. -/
def State.nextSource (s : State) (source : Option Node) : Option Node :=
  ((nodesAfter source).filterMap fun n => match s.findPeer n with
    | some q => if q.offers s.stagingId then some q.node else none
    | none => none).head?

/-- The numbers of the MISSING chunks, lowest first. -/
def missingChunks (map : List ChunkState) : List Nat :=
  (List.range map.length).filter fun k => map.getD k .present == .missing

/-- The body of CHUNK_WANT (Table 11-5). -/
def wantBody (id : Word) (chunks : List Nat) : List Byte :=
  be 4 id.toNat ++ [byteOf chunks.length] ++ (chunks.map fun k => be 2 k).flatten

/-- The next CHUNK_WANT to the source chosen: the 8 lowest MISSING chunks become the batch; with none MISSING nothing is
sent and no deadline runs. -/
def State.sendWant (s : State) (source : Node) : State :=
  let batch := (missingChunks s.ups.map).take 8
  if batch = [] then s.setFetch (some ⟨some source, [], none, none⟩)
  else (s.sendTo source kChunkWant (wantBody s.stagingId batch)).setFetch
    (some ⟨some source, batch, some (after s.now 2000), none⟩)

/-- The fetch selects its next source; with no qualifying peer FETCH_STALLED is given and selection waits 2000 ms.
DESIGN CHOICE, log entry 28: with no qualifying peer the source becomes NONE, so the retry takes the lowest one. -/
def State.selectSource (s : State) (f : Fetch) : State :=
  match s.nextSource f.source with
  | some n => s.sendWant n
  | none => (s.giveReport .fetchStalled 0 []).setFetch (some ⟨none, [], none, some (after s.now 2000)⟩)

/-- What a change of the chunk map means for a running fetch: with no chunk MISSING the deadline stops; with none running
and chunks MISSING, or with the batch resolved, the next CHUNK_WANT goes to the same source. -/
def State.fetchGoesOn (s : State) : State :=
  match s.ups.fetch with
  | none => s
  | some f =>
    match f.source with
    | none => s
    | some n =>
      if missingChunks s.ups.map = [] then s.setFetch (some ⟨some n, [], none, none⟩)
      else if f.deadline.isNone || f.batch.all fun k => s.ups.map.getD k .missing == .present then s.sendWant n
      else s

/-! ## Assembly buffers and chunk writes (R158, R159) -/

/-- A STAGE_CHUNK takes a buffer: its data is read by bulk transfer. -/
def State.stageInto (s : State) (b : Fin 4) (id chunk offset : Nat) : State :=
  match s.orderOf id, s.ups.manifest with
  | some o, some m =>
    ((s.setBuf b (some ⟨chunk, [], some id, .reading⟩)).setWork (.stage id)).bulkRead o offset (m.chunkLen chunk)
  | _, _ => s

/-- A buffer is freed; it goes to a STAGE_CHUNK waiting for one in the same step (R159). -/
def State.freeBuf (s : State) (b : Fin 4) : State :=
  let s := s.setBuf b none
  match s.ups.work with
  | .stageWait id chunk offset => s.stageInto b id chunk offset
  | _ => s

/-- A chunk write ends for the order it works for, if any. -/
def State.stageEnds (s : State) (order : Option Nat) (st : Status) (results : List Byte) : State :=
  match order with
  | some id => s.endWork id st 0 results
  | none => s

/-- CHUNK_FAILED with its cause: CRC 0, FLASH 1, VERIFY 2. -/
def State.chunkFailed (s : State) (k cause : Nat) : State := s.giveReport .chunkFailed k [byteOf cause]

/-- Steps 1 and 2 of a chunk write (R158): the buffer holds the whole chunk. -/
def State.writeChunk (s : State) (b : Fin 4) (x : Buf) : State :=
  match s.ups.manifest with
  | none => s.freeBuf b
  | some m =>
    if crc32 x.data ≠ m.crc x.chunk then
      ((s.freeBuf b).chunkFailed x.chunk 0).stageEnds x.order .crcMismatch []
    else
      match s.ups.map.getD x.chunk .present with
      | .missing =>
        let s := (s.setChunk x.chunk .writing).setBuf b (some { x with phase := .erasing })
        (s.flashRequest (flashErase .staging (chunkAddr s.stagingSlot x.chunk) (.buf b))).fetchGoesOn
      | .writing => (s.freeBuf b).stageEnds x.order .again []
      | .present => (s.freeBuf b).stageEnds x.order .duplicate []

/-- A chunk write fails in flash or at verify (R158 step 5). -/
def State.chunkLost (s : State) (b : Fin 4) (x : Buf) (cause : Nat) : State :=
  let s := (((s.setChunk x.chunk .missing).freeBuf b).chunkFailed x.chunk cause).stageEnds x.order .flashError []
  s.fetchGoesOn

/-- Every chunk is PRESENT: the state becomes COMPLETE, the fetch ends, STAGING_COMPLETE is given (R158). -/
def State.complete (s : State) : State :=
  State.giveReport { s with ups := { s.ups with state := .complete, fetch := none } } .stagingComplete 0
    (le 4 s.stagingId.toNat)

/-- A chunk is written and verified (R158 step 5). -/
def State.chunkWritten (s : State) (b : Fin 4) (x : Buf) : State :=
  let s := (s.setChunk x.chunk .present).freeBuf b
  let left := s.ups.map.length - s.chunksHeld
  let s := s.stageEnds x.order .ok (le 2 x.chunk ++ le 2 left)
  if left = 0 then s.complete else s.fetchGoesOn

/-- A flash operation of a chunk write ends (R158 steps 3 to 5). -/
def State.bufFlashDone (s : State) (b : Fin 4) (ok : Bool) (data : List Byte) : State :=
  match s.ups.bufs.get b with
  | none => s
  | some x =>
    if !ok then s.chunkLost b x 1
    else
      let addr := chunkAddr s.stagingSlot x.chunk
      let program := fun k =>
        (s.setBuf b (some { x with phase := .programming k })).flashRequest
          (flashProgram .staging (addr + 256 * k) ((x.data.drop (256 * k)).take 256) (.buf b))
      match x.phase with
      | .erasing => program 0
      | .programming k =>
        if k + 1 < ceilDiv x.data.length 256 then program (k + 1)
        else (s.setBuf b (some { x with phase := .verifying })).flashRequest
          (flashRead .staging addr x.data.length (.buf b))
      | .verifying =>
        match s.ups.manifest with
        | some m => if crc32 data = m.crc x.chunk then s.chunkWritten b x else s.chunkLost b x 2
        | none => s.freeBuf b
      | .reading | .assembling _ _ => s

/-! ## Serving (R163) -/

/-- The manifest that describes a servable chunk and the slot it lies in. DESIGN CHOICE, log entry 28: the id asked for is
compared with the active image id of the slot record's copy alone, never with the id the active slot's manifest holds,
where the two differ (R163 says "the active image id", R155 keeps the manifest's id "for serving"); and a chunk that
both cases make servable is read from the active slot. -/
def State.servable (s : State) (id : Word) (chunk : Nat) : Option (Slot × Manifest) :=
  match s.fls.activeManifest with
  | some m =>
    if id = s.activeId ∧ chunk < m.count then some (s.fls.slot.active, m)
    else match s.ups.manifest with
      | some n => if id = n.id ∧ s.ups.map.getD chunk .missing = .present then some (s.stagingSlot, n) else none
      | none => none
  | none => match s.ups.manifest with
    | some n => if id = n.id ∧ s.ups.map.getD chunk .missing = .present then some (s.stagingSlot, n) else none
    | none => none

/-- The body of CHUNK_NONE (Table 11-5). -/
def noneBody (id : Word) (busy : Bool) (chunks : List Nat) : List Byte :=
  be 4 id.toNat ++ [flagByte busy, byteOf chunks.length] ++ (chunks.map fun k => be 2 k).flatten

/-- Serving of staging chunks ends: entries whose id is not the active image id go (R161, R163). DESIGN CHOICE, log
entry 28: at BEGIN_STAGING too a serve of such an entry already under way ends, counted neither as clean nor as dropped. -/
def State.dropServes (s : State) : State :=
  let id := s.activeId
  let s := { s with ups := { s.ups with serves := s.ups.serves.filter fun e => e.id == id } }
  match s.ups.serving with
  | some e => if e.id = id then s else State.dropFlash { s with ups := { s.ups with serving := none } } (· == .serve)
  | none => s

/-- The body of CHUNK_DATA (Table 11-5) of fragment f. -/
def dataBody (id : Word) (chunk f : Nat) (data : List Byte) : List Byte :=
  be 4 id.toNat ++ be 2 chunk ++ [byteOf f] ++ be 2 data.length ++ data

/-- The fragments of a chunk from index f on are sent, until one does not join (R163); whether all joined. -/
def State.sendFragments (e : Serve) (data : List Byte) : List Nat → State → State × Bool
  | [], s => (s, true)
  | f :: fs, s =>
    let r := s.send e.node kChunkData (dataBody e.id e.chunk f ((data.drop (1024 * f)).take 1024))
    if r.2 = .joined then State.sendFragments e data fs r.1 else (r.1, false)

/-- The serve gap after a serve (R163). DESIGN CHOICE, log entry 28: an odd gap halves to the whole millisecond below. -/
def State.serveEnds (s : State) (clean : Bool) : State :=
  let u := s.ups
  if clean then
    if 10 ≤ u.cleanServes + 1 then
      { s with ups := { u with serving := none, cleanServes := 0, serveGap := max u.gapMin (u.serveGap / 2) } }
    else { s with ups := { u with serving := none, cleanServes := u.cleanServes + 1 } }
  else { s with ups := { u with serving := none, cleanServes := 0, serveGap := min 1280 (2 * u.serveGap) } }

/-! ## The install hold (R164, R165) -/

/-- The HOLD_END causes (Table 11-1). -/
inductive HoldCause where
  | committed | cancelled | expired
deriving DecidableEq, Repr

def HoldCause.code : HoldCause → Nat
  | .committed => 0 | .cancelled => 1 | .expired => 2

/-- The hold ends with the stager back in COMPLETE, or in IDLE after a commit. -/
def State.endHold (s : State) (c : HoldCause) : State :=
  let u := match c with
    | .committed => { s.ups with state := .idle, manifest := none, map := [], holdMinutes := 0 }
    | .cancelled | .expired => { s.ups with state := .complete, holdMinutes := 0 }
  State.giveReport { s with ups := u } .holdEnd 0 [byteOf c.code]

/-- A slot record write is requested: the erase of its sector (R155). -/
def State.eraseSlotRecord (s : State) (w : FlashOwner) : State :=
  s.flashRequest (flashErase .slotRecord slotRecordAddr w)

/-- The second part of a slot record write: the program of the record's page (R155, R172). -/
def State.programSlotRecord (s : State) (r : SlotRecord) (w : FlashOwner) : State :=
  s.flashRequest (flashProgram .slotRecord slotRecordAddr r.bytes w)

/-! ## Withdrawing a staging (R161) -/

/-- The kinds a CANCEL_STAGING answers CANCELLED: BEGIN_STAGING, STAGE_CHUNK, RESUME_STAGING. -/
def cancellable (k : Byte) : Bool := k == 0x80 || k == 0x81 || k == 0x82

/-- The order of a staging work that a cancel interrupts; slot record writes are not staging work. -/
def UpsWork.stagingOrder : UpsWork → Option Nat
  | .beginHead id _ | .beginBody id _ _ | .beginErase id _ _ | .beginProgram id _ _ | .stageWait id _ _ | .stage id
  | .resume id _ | .rescan id _ => some id
  | .idle | .slotErase _ _ _ | .slotProgram _ _ _ => none

/-- The owners of staging work in the flash request list. -/
def stagingOwner : FlashOwner → Bool
  | .work | .buf _ => true
  | .nobody | .boot | .readFlash | .serve | .cancel _ => false

/-- The interrupted work of a cancelled staging is dropped. -/
def State.dropStaging (s : State) : State :=
  match s.ups.work.stagingOrder with
  | some id => ((s.dropBulk id).dropFlash stagingOwner).setWork .idle
  | none => s.dropFlash fun w => match w with
    | .buf _ => true
    | _ => false

/-- Every BEGIN_STAGING, STAGE_CHUNK and RESUME_STAGING not yet answered is to be answered CANCELLED in its turn. -/
def State.cancelStagingOrders (s : State) : State :=
  let cancelled := fun (o : Order) =>
    if o.owner == .ups && !o.ended && cancellable o.kind then { o with progress := .cancelled } else o
  { s with exu := { s.exu with inFlight := s.exu.inFlight.map cancelled } }

/-- What a CANCEL_STAGING does in the step in which it joins the Update Stager's order list (R161). -/
def State.cancelJoins (s : State) (id : Nat) : State :=
  match s.ups.state with
  | .idle => s.mark id .cancelNothing
  | .hold => s.mark id .cancelRefused
  | .staging | .complete | .rescanning =>
    let s := s.dropStaging.dropServes
    let s := s.cancelStagingOrders
    let s := { s with ups := { s.ups with
      bufs := .replicate 4 none, fetch := none, state := .idle, manifest := none, map := [] } }
    (s.mark id .cancelErasing).flashRequest (flashErase .staging (slotBase s.stagingSlot) (.cancel id))

end Sys2Proof.Machine
end

