-- ==== Sys2Proof/Machine/Moves.lean ====
section
/-!
DEFINITION. The shared operations of the Handoff Controller: the offer and its body, scoring, the end of an offer, the
reservation, the confirm and the return (chapter 9).
-/

namespace Sys2Proof.Machine

open Sys2Proof

/-! ## The offer (R141) -/

/-- Insert by age, keeping earlier entries of equal age first. -/
def insertByAge (x : Nat × Flow) : List (Nat × Flow) → List (Nat × Flow)
  | [] => [x]
  | y :: ys => if x.1 < y.1 then x :: y :: ys else y :: insertByAge x ys

/-- Most recently seen first, ties to the lower table index. -/
def sortByAge (l : List (Nat × Flow)) : List (Nat × Flow) := l.foldl (fun acc x => insertByAge x acc) []

/-- The record's flows of class GAME or LIVE that an offer carries: at most 16, most recently seen first. -/
def State.offeredFlows (s : State) (i : StaIx) : List Flow :=
  let all := (s.flc.sets.toList.map fun set => set.toList.filterMap id).flatten
  let own := all.filter fun f => f.station == some i && (f.cls == .game || f.cls == .live)
  ((sortByAge (own.map fun f => (age s.now f.lastSeen, f))).map Prod.snd).take 16

/-- The OFFER body (R141, Table 11-5). -/
def State.offerBody (s : State) (i : StaIx) (id : HandoffId) : List Byte :=
  let r := s.sta i
  let arms := (liveArms s.now r.arms).toList.filterMap fun e => e
  let flows := s.offeredFlows i
  idMacBody id r.mac ++ [profileByte r.profile] ++ be 2 r.used ++ be 2 r.bonus ++ be 4 (r.day.getD 0).toNat
    ++ [flagByte r.day.isSome] ++ be 2 r.rate ++ [byteOf arms.length, byteOf flows.length]
    ++ (arms.map fun a => [a.group] ++ be 4 (elapsed a.expiry s.now)).flatten
    ++ (flows.map fun f => f.key.bytes ++ [byteOf (classIx f.cls).val, flagByte f.listed]).flatten

/-- An offer begins (R141, R132 with T = 100 ms). -/
def State.beginOffer (s : State) (i : StaIx) (peer : Node) : State :=
  let a := s.newHandoffId
  let s := a.1
  let body := s.offerBody i a.2
  let r := s.sta i
  let s := s.setSta i { r with
    state := .offering
    query := none
    handoff := some ⟨a.2, peer, 1, after s.now 100, r.used, r.day, false, none, body⟩ }
  s.sendTo peer kOffer body

/-! ## Scoring (R140) -/

/-- The margin M, in sixteenths of a dB. -/
def State.margin (s : State) (r : Station) (avg : Int) : Int :=
  let c := s.hoc.roaming
  16 * (c.baseMargin : Int) + if s.gaming r ∧ 16 * c.critical ≤ avg then 16 * (c.gameExtra : Int) else 0

/-- A candidate's score, when it qualifies against the bar (own score plus margin). -/
def State.qualified (s : State) (bar : Int) (c : Candidate) : Option Int :=
  match c.heard with
  | none => none
  | some h =>
    let score := h - (s.hoc.roaming.loadWeight : Int) * (c.load : Int)
    if !c.hold && s.peerPresent c.node && decide (bar ≤ score) then some score else none

/-- The winner so far: a later candidate takes its place only with a higher score. -/
def State.better (s : State) (bar : Int) (best : Option (Int × Node)) (c : Candidate) : Option (Int × Node) :=
  match s.qualified bar c, best with
  | none, b => b
  | some x, none => some (x, c.node)
  | some x, some (y, n) => if y < x then some (x, c.node) else some (y, n)

/-- The winner of a candidate table, whose entries stand in node order. -/
def State.winner (s : State) (r : Station) (l : List Candidate) : Option Node :=
  let avg := r.signal.getD 0
  let own := avg - (s.hoc.roaming.loadWeight : Int) * (s.load : Int)
  (l.foldl (s.better (own + s.margin r avg)) none).map Prod.snd

/-- The candidate table closes and the record is scored (R138, R140). -/
def State.closeQuery (s : State) (i : StaIx) : State :=
  let r := s.sta i
  match r.query with
  | none => s
  | some q =>
    match s.winner r q.entries with
    | some n => s.beginOffer i n
    | none => s.setSta i { (r.backOff s.now) with state := .active, query := none }

/-- The PRESENT peers in node number order. -/
def State.presentPeers (s : State) : List Node :=
  (List.range 8).filterMap fun n => match s.findPeer n with
    | some q => if q.present then some q.node else none
    | none => none

/-- A record becomes WATCHED and its query goes out (R136 step 3, R138). DESIGN CHOICE, log entry 37: the SIGNAL_QUERYs of
the step are sent in node number order, the order R138 gives the entries of the table alone. -/
def State.startQuery (s : State) (i : StaIx) : State :=
  let r := s.sta i
  let peers := s.presentPeers
  let c := s.hoc.roaming
  let s := s.setSta i { r with
    state := .watched
    runOn := 0
    query := some ⟨peers.map fun n => ⟨n, false, none, 0, false⟩, after s.now c.queryDeadline⟩ }
  if peers = [] then s.closeQuery i
  else peers.foldl (fun s n => s.sendTo n kSignalQuery (macBytes r.mac ++ be 2 c.listenWindow)) s

/-- The body of SIGNAL_REPORT (Table 11-5): HOLD is read at the moment it is sent (R151). -/
def State.reportBody (s : State) (m : Mac) (heard : Option Int) (busy : Bool) : List Byte :=
  macBytes m ++ be 2 (signalCode heard) ++ [byteOf s.load, byteOf ((if s.holding then 1 else 0) + if busy then 2 else 0)]

/-! ## The end of an offer (R143, R150) -/

/-- The FORCE_HANDOFF order that waits for a station's offer is answered. -/
def State.endForced (s : State) (i : StaIx) (st : Status) (detail : Byte) : State :=
  match s.hoc.forced with
  | some (k, id) =>
    if k = i then State.finish { s with hoc := { s.hoc with forced := none } } id st detail [] else s
  | none => s

/-- The body of HANDOFF_FAILED (R143). -/
def failedBody (h : Handoff) (reason : Byte) : List Byte := [byteOf h.peer.val] ++ h.id.leBytes ++ [reason]

/-- An offer fails (R143): a departed record is freed, any other returns to ACTIVE with the back-off. -/
def State.offerFails (s : State) (i : StaIx) (h : Handoff) (reason : Byte) (timedOut : Bool) : State :=
  let r := s.sta i
  let s := if r.departed then s.freeStation i
    else s.setSta i { (r.backOff s.now) with state := .active, handoff := none, runOn := 0 }
  let s := s.giveReport .handoffFailed i.val (failedBody h reason)
  if timedOut then s.endForced i .timeout 0 else s.endForced i .declined reason

/-- The record in one of the states given whose sub-record holds an id (and, where asked, this peer). -/
def State.findHandoff (s : State) (id : HandoffId) (p : StaState → Bool) (peer : Option Node) : Option (StaIx × Handoff) :=
  (List.finRange 128).findSome? fun i =>
    let r := s.sta i
    match r.handoff with
    | some h => if p r.state && h.id == id && (peer.isNone || peer == some h.peer) then some (i, h) else none
    | none => none

/-! ## The reservation at the target (R142) -/

/-- The class of a handed flow: as handed, or the free value when the byte names no flow class. -/
def handedClassOf (b : Byte) : TClass :=
  match classOfCode b.toNat with
  | some .ctrl | none =>
    match Config.handedClass b with
    | 0 => .game | 1 => .live | 2 => .normal | 3 => .bulk | 4 => .update
  | some c => c

/-- Flow j of an OFFER body with `a` arm entries, as it is installed (R63). DESIGN CHOICE, log entry 30: any nonzero
LISTED byte is true. -/
def State.handedFlow (s : State) (i : StaIx) (b : List Byte) (a j : Nat) : Flow :=
  let o := 24 + 5 * a + 40 * j
  ⟨flowKeyAt b o, some i, handedClassOf (byteAt b (o + 38)), .handed, byteAt b (o + 39) != 0, s.now, s.now, 0⟩

/-- The day an OFFER or SETTLE body carries at `i`, with its stamped byte after it. -/
def dayAt (b : List Byte) (i : Nat) : Option Word :=
  if byteAt b (i + 4) = 0 then none else some (BitVec.ofNat 32 (beAt b i 4))

/-- The arm list of a reservation. DESIGN CHOICE, log entry 26: an entry is stored as the offer hands it, also where its
group is above 7 or repeats that of another entry (R57). -/
def handedArms (now : Ms) (b : List Byte) : Vector (Option Arm) 4 :=
  Vector.ofFn fun k : Fin 4 =>
    if k.val < (byteAt b 22).toNat then
      some ⟨byteAt b (24 + 5 * k.val), after now (beAt b (25 + 5 * k.val) 4)⟩
    else none

/-- The record of a reservation (R142). DESIGN CHOICE, log entry 26: the MAC is stored as the offer hands it, also where
it is a group address or all zero; Table 5-1 gives the field individual addresses only (R81) and R142 names no test. -/
def State.reservation (s : State) (origin : Node) (b : List Byte) : Station :=
  let u0 := beAt b 11 2
  { Station.free with
    state := .reserved
    mac := macAt b 4
    radio := .a
    profile := finOf 16 (byteAt b 10).toNat
    rate := clamp 1 4800 (beAt b 20 2)
    used := clamp 0 1440 u0
    bonus := clamp 0 720 (beAt b 13 2)
    day := dayAt b 15
    arms := handedArms s.now b
    handoff := some ⟨handoffIdAt b 0, origin, 0, after s.now s.hoc.roaming.arrivalWindow, u0, dayAt b 15, false, none, []⟩ }

/-- A reservation at an index: the record, its address entry's removal, the handed flows, spent and gate (R142).
DESIGN CHOICE, log entry 22: `origin` is the OFFER's sender, also where the node of the offered id names another. -/
def State.reserve (s : State) (i : StaIx) (origin : Node) (b : List Byte) : State :=
  let s := s.enter i (s.reservation origin b)
  let a := (byteAt b 22).toNat
  let s := (List.range (byteAt b 23).toNat).foldl (fun s j => s.placeFlow (s.handedFlow i b a j)) s
  (s.recomputeSpent i).recomputeGate i

/-! ## Confirm and settle at the origin (R147) -/

/-- The body of SETTLE (Table 11-5). -/
def settleBody (id : HandoffId) (m : Mac) (u1 : Nat) (day : Option Word) : List Byte :=
  idMacBody id m ++ be 2 u1 ++ be 4 (day.getD 0).toNat ++ [flagByte day.isSome]

/-- A confirm completes a move (R147). -/
def State.completeMove (s : State) (i : StaIx) (h : Handoff) : State :=
  let r := s.sta i
  let settle : SettleWait := ⟨h.id, 1, after s.now 50, r.used, r.day⟩
  let s := s.setSta i { r with
    state := .left
    handoff := none
    query := none
    held := none
    forward := some ⟨h.peer, after s.now 2000, some settle⟩ }
  let s := s.dropFlows fun f => f.station == some i
  let s := s.membership r.profile
  let s := s.purgeStation i
  let q := s.releaseHeld .mesh none (some h.peer) (r.held.getD [])
  let s := q.1.sendTo h.peer kSettle (settleBody h.id r.mac r.used r.day)
  s.giveReport .handoffDone i.val ([byteOf h.peer.val] ++ h.id.leBytes ++ [byteOf q.2])

/-! ## The return of a withdrawn record (R149) -/

/-- A return: a departed record is freed with its held frames; any other is ACTIVE again and its held frames go toward
its radio. -/
def State.returnStation (s : State) (i : StaIx) (h : Handoff) (reason : Byte) : State :=
  let r := s.sta i
  let s := if r.departed then s.freeStation i
    else
      let s := s.setSta i { (r.backOff s.now) with state := .active, handoff := none, held := none, runOn := 0 }
      (s.releaseHeld (radioPort r.radio) (some i) none (r.held.getD [])).1
  s.giveReport .handoffFailed i.val (failedBody h reason)

end Sys2Proof.Machine
end

