-- ==== Sys2Proof/Machine/Tables.lean ====
section
/-!
DEFINITION. The entries READ_TABLE copies (R18), in the layouts of section 11.4.
-/

namespace Sys2Proof.Machine

open Sys2Proof

/-- The number of entries of a table (R18); 0 for a code above 6. -/
def State.tableSize (s : State) : Nat → Nat
  | 0 => 128 | 1 => 1024 | 2 => 64 | 3 => 16 | 4 => 7 | 5 => 256 | 6 => s.ups.map.length | _ => 0

/-- The bytes of one entry of a table (R18). -/
def entrySize : Nat → Nat
  | 0 | 1 | 2 => 64 | 3 => 128 | 4 => 32 | 5 => 16 | _ => 1

/-- Weighted flag bits. -/
def flagBits : List Bool → Nat
  | [] => 0
  | b :: bs => (if b then 1 else 0) + 2 * flagBits bs

/-- An arm-list position: group and expiry, 0xFF for a free position. DESIGN CHOICE, log entry 29: the expiry bytes of a
free position are 0. -/
def armBytes : Option Arm → List Byte
  | none => [255] ++ le 4 0
  | some a => [a.group] ++ le 4 a.expiry.toNat

/-- The STATIONS entry (Table 11-4). DESIGN CHOICE, log entry 29: the handoff tries and count are those of the handoff
sub-record, and 0 for a LEFT record, also while its settle exchange runs. -/
def stationEntry (i : Nat) (r : Station) : List Byte :=
  let peer : Byte := match r.handoff, r.forward with
    | some h, _ => byteOf h.peer.val
    | none, some f => byteOf f.peer.val
    | none, none => 255
  let entries := (r.query.map Query.entries).getD []
  [byteOf i, byteOf r.state.code] ++ macBytes r.mac
    ++ [byteOf (portIx (radioPort r.radio)).val, profileByte r.profile]
    ++ le 2 r.rate ++ le 2 (signalCode r.signal) ++ [byteOf r.runOn, byteOf r.requery] ++ le 4 r.nextQuery.toNat
    ++ le 2 r.used ++ le 2 r.bonus ++ le 4 (r.day.getD 0).toNat ++ le 4 r.bytes
    ++ [byteOf r.gate.code, byteOf (flagBits [r.spent, r.departed, r.day.isSome, r.lastGame.isSome,
        r.handoff.isSome, r.query.isSome, r.held.isSome, r.forward.isSome])]
    ++ le 4 (r.lastGame.getD 0).toNat ++ (r.arms.toList.map armBytes).flatten
    ++ [peer, byteOf ((r.handoff.map Handoff.tries).getD 0)]
    ++ le 2 (match r.handoff with
        | some h => h.id.count.toNat
        | none => 0)
    ++ [byteOf (entries.length + 16 * (entries.filter Candidate.answered).length),
        byteOf (r.held.getD []).length]

/-- The FLOWS entry (R47, R167). -/
def flowEntry : Option Flow → List Byte
  | none => pad 64 [255]
  | some f => pad 64 (f.key.bytes ++ [stationByte f.station, byteOf (classIx f.cls).val, byteOf f.origin.code,
      flagByte f.listed] ++ le 4 f.firstSeen.toNat ++ le 4 f.lastSeen.toNat ++ le 4 f.bytes)

/-- The station selector field of a rule (R167). -/
def selectorBytes : Selector → List Byte
  | .any => pad 7 [0]
  | .mac m => [1] ++ macBytes m
  | .profile p => pad 7 [2, byteOf p.val]

def RuleStage.code : RuleStage → Nat
  | .one => 0 | .two => 1
def Family.code : Family → Nat
  | .any => 0 | .ipv4 => 1 | .ipv6 => 2
def Response.code : Response → Nat
  | .terminal => 0 | .pass => 1 | .drop => 2

/-- The RULES entry: the fields of Table 3-1 in order, then the hit count. DESIGN CHOICE, log entry 29: the hit count
stands after all fields of Table 3-1, and the address value stands most significant byte first. -/
def ruleEntry (r : Rule) : List Byte :=
  pad 64 ([flagByte r.enabled, byteOf r.stage.code, r.armGroup, r.protoValue, r.protoMask, byteOf r.family.code]
    ++ be 16 r.addr.toNat ++ [byteOf r.prefixLen] ++ le 2 r.portLow.toNat ++ le 2 r.portHigh.toNat
    ++ [flagByte r.invert, r.dscpValue.setWidth 8, r.dscpMask.setWidth 8] ++ le 2 r.lengthLow ++ le 2 r.lengthHigh
    ++ selectorBytes r.selector
    ++ [byteOf r.response.code, byteOf (classIx r.cls).val, byteOf (flagBits [r.listed, r.report, r.arm])]
    ++ le 2 r.armTime ++ le 4 r.hits)

def windowBytes (w : Window) : List Byte := [w.mask.setWidth 8] ++ le 2 w.start ++ le 2 w.stop

/-- A transition: enabled in bit 7 and the condition in bits 3..0, then the to-state (Table 11-1). -/
def transitionBytes (t : Transition) : List Byte :=
  [byteOf (t.cond.code + if t.enabled then 128 else 0), byteOf t.dest.val]

def progStateBytes (x : ProgState) : List Byte :=
  [byteOf x.level.code, byteOf x.spentLevel.code] ++ (x.transitions.toList.map transitionBytes).flatten

/-- The PROFILES entry: the fields of Table 7-1 in order. -/
def profileEntry (x : Profile) : List Byte :=
  pad 128 ([flagByte x.inUse, byteOf x.lock.code] ++ (x.allowances.toList.map (le 2)).flatten ++ le 4 x.threshold
    ++ (x.windows.toList.map windowBytes).flatten ++ [flagByte x.paused, byteOf x.count, byteOf x.initial.val]
    ++ (x.states.toList.map progStateBytes).flatten ++ [byteOf x.current.val])

/-- The PEERS entry (section 11.4). -/
def peerEntry : Option Peer → List Byte
  | none => pad 32 [255]
  | some q => pad 32 ([byteOf q.node.val] ++ macBytes q.mac ++ le 2 q.rate ++ [flagByte q.present]
      ++ le 4 (q.lastHeard.getD 0).toNat ++ le 2 (q.lastSeq.getD 0).toNat
      ++ [byteOf q.load, byteOf (flagBits [q.hold, q.staging, q.stagedComplete, q.lastHeard.isSome, q.lastSeq.isSome])]
      ++ le 4 q.stagingId.toNat ++ le 2 q.chunksHeld ++ le 4 q.activeId.toNat)

/-- The ADDRESSES entry (R41). -/
def addressEntry : Option AddrEntry → List Byte
  | none => pad 16 [255]
  | some e => pad 16 (macBytes e.mac ++ [byteOf (portIx e.port).val] ++ le 4 e.lastSeen.toNat)

/-- The copy of entry `i` of a table, taken at this instant (R18 step 4). -/
def State.entryBytes (s : State) (table i : Nat) : List Byte :=
  match table with
  | 0 => match finOf 128 i with
    | some k => pad 64 (stationEntry i (s.sta k))
    | none => []
  | 1 => match finOf 256 (i / 4), finOf 4 (i % 4) with
    | some k, some w => flowEntry ((s.flc.sets.get k).get w)
    | _, _ => []
  | 2 => match finOf 64 i with
    | some k => ruleEntry (s.flc.rules.get k)
    | none => []
  | 3 => match finOf 16 i with
    | some k => profileEntry (s.profile k)
    | none => []
  | 4 => match finOf 7 i with
    | some k => peerEntry (s.mlc.peers.get k)
    | none => []
  | 5 => match finOf 256 i with
    | some k => addressEntry (s.frp.addresses.get k)
    | none => []
  | _ => [byteOf (s.ups.map.getD i .missing).code]

/-- Begin a table read: the first entry is copied and its write requested (R18 steps 3 and 4). -/
def State.tableStart (s : State) (o : Order) (table start span capacity dest : Nat) : State :=
  let n := min span (capacity / entrySize table)
  let s := s.mark o.id .working
  State.bulkWrite { s with exu := { s.exu with tableWork := some ⟨o.id, table, start, n - 1, 0, dest, span⟩ } } o dest
    (s.entryBytes table start)

/-- The write of an entry of a table read completes (R18 steps 4 and 5). -/
def State.tableGoesOn (s : State) (o : Order) (w : TableWork) : State :=
  let written := w.written + 1
  let next := w.index + 1
  if w.left = 0 then
    let remaining := w.span - written
    let s := { s with exu := { s.exu with tableWork := none, readPos := some ⟨o.id, w.table, next, remaining⟩ } }
    s.accept o (le 2 written ++ le 2 next ++ le 2 remaining)
  else
    let dest := w.dest + entrySize w.table
    State.bulkWrite
      { s with exu := { s.exu with tableWork := some { w with index := next, left := w.left - 1, written := written, dest := dest } } }
      o dest (s.entryBytes w.table next)

end Sys2Proof.Machine
end

