-- ==== Sys2Proof/Machine/Exchange.lean ====
section
/-!
DEFINITION. The commands of the register window and of the Exchange Unit's own lists and orders (chapter 1), but for
the completions on the bus, which stand in Machine/Bus.lean.
-/

namespace Sys2Proof.Machine

open Sys2Proof

/-! ## CONTROL (R3, R7, R26) -/

/-- A port at an engine reset (R80): power-on values, but the transmit state and the buffers of frames on the link. -/
def portAtReset (p : PortId) (x : Port) : Port :=
  { Port.reset p with
    tx := match x.tx with
      | .sending => .notReady
      | .notReady => .notReady
      | .ready => .ready
    ghosts := x.ghosts + if x.onLink.isSome then 1 else 0 }

/-- The engine reset of R26: EVENTS becomes 0, every list of the exchange is emptied, every block returns to its
power-on state, and the area registers, the event mask, the access on the bus and the flash operation under way stay, as
does the model's own count of the triggers taken (log entry 15).
DESIGN CHOICE, log entry 32: the fault cause reads NONE from the RESET write on; R26 states NONE for the moment the
engine becomes OFF and says nothing of it while RESETTING.
DESIGN CHOICE, log entry 32: an answer's state write or a FILLED write that is on the bus at the RESET runs to completion
(R26) but has no owner any more, so its completion while RESETTING sets neither ANSWERED nor REPORTED. R22 names no
exception, and R26 does not say whether such a completion still sets its event. -/
def State.engineReset (s : State) : State :=
  let ports : Vector Port 5 := #v[portAtReset .localPort (s.port .localPort), portAtReset .wan (s.port .wan),
    portAtReset .radioA (s.port .radioA), portAtReset .radioB (s.port .radioB), portAtReset .mesh (s.port .mesh)]
  { State.reset with
    pending := s.pending
    exu := { Exu.reset with
      areaLow := s.exu.areaLow
      areaHigh := s.exu.areaHigh
      areaSize := s.exu.areaSize
      eventMask := s.exu.eventMask
      msi := s.exu.msi
      engine := .resetting
      resetUntil := s.sck.us + BitVec.ofNat 64 Config.longLimitUs
      bus := s.exu.bus.map fun b => ({ b.1 with owner := .nobody }, b.2) }
    frp := { Frp.reset with
      ports := ports
      free := Config.poolSize - (ports.toList.map Port.ghosts).sum }
    pfe := { Pfe.reset with taken := s.pfe.taken }
    sck := { Sck.reset with us := s.sck.us }
    fls := { Fls.reset with
      op := s.fls.op.map fun o => ({ o.1 with owner := .nobody }, o.2)
      stalled := s.fls.stalled } }

/-- CONTROL written with RESET: ignored while RESETTING (R3). -/
def State.controlReset (s : State) : State := if s.exu.engine = .resetting then s else s.engineReset

/-- The blocks start at a RUN taken in OFF (R7 step 2, R99, R136, R153). -/
def State.startBlocks (s : State) : State :=
  { s with
    sck := { s.sck with ms := 0, usPart := 0, counting := true, unsetCount := 0 }
    hoc := { s.hoc with checkAt := after 0 s.hoc.roaming.checkInterval }
    fls := { s.fls with boot := .waitStatus (s.sck.us + BitVec.ofNat 64 Config.longLimitUs) } }

/-- Every entry then in the orders-in-flight list is orphaned (R25). -/
def State.orphanAll (s : State) : State :=
  let orphan := fun (o : Order) => { o with orphaned := true }
  { s with exu := { s.exu with inFlight := s.exu.inFlight.map orphan } }

/-- The area in use is taken from the registers and the header read is requested (R6, R7 steps 1 and 3). -/
def State.takeRun (s : State) (withNudge : Bool) : State :=
  let area : Area := ⟨s.exu.areaHigh ++ s.exu.areaLow, s.exu.areaSize.toNat⟩
  State.request { s with exu := { s.exu with area := area, runWait := some withNudge, lookPending := false } }
    (readAccesses .order area 0 64 .header)

/-- CONTROL written with RUN and not RESET (R3, R7). A RUN whose header read is still under way leaves a second one
without effect (log entry 6). -/
def State.controlRun (s : State) (withNudge : Bool) : State :=
  match s.exu.runWait with
  | some _ => s
  | none =>
    match s.exu.engine with
    | .off => s.startBlocks.takeRun withNudge
    | .halted => s.orphanAll.takeRun withNudge
    | .running => if withNudge then s.causeLook else s
    | .resetting => s

/-- POWER_ON (R27). Everything but the queue of commands takes its power-on value. -/
def execPowerOn (s : State) : Result := .next { State.reset with pending := s.pending }

/-- RUN (R3, R7). -/
def execRun (withNudge : Bool) (s : State) : Result := .next (s.controlRun withNudge)

/-- RESET (R3, R26). -/
def execReset (s : State) : Result := .next s.controlReset

/-- NUDGE (R3, R9): a look, in RUNNING. -/
def execNudge (s : State) : Result := .next s.causeLook

/-- EVENTS_WRITE (R22). -/
def execEventsWrite (v : Word) (s : State) : Result := .next (s.clearEvents v)

/-- AREA_SIZE_WRITE (R2). -/
def execAreaSizeWrite (v : Word) (s : State) : Result := .next (s.writeAreaSize v)

/-- A 32-bit write of CONTROL (R3). -/
def State.writeControl (s : State) (v : Word) : State :=
  if v.getLsbD 1 then s.controlReset
  else if v.getLsbD 0 then s.controlRun (v.getLsbD 2)
  else if v.getLsbD 2 then s.causeLook
  else s

/-- A 32-bit write of the register at word offset `k` (R1, R2, R3, R22, Table 1-1). -/
def State.writeRegister (s : State) (k : Nat) (v : Word) : State :=
  match k with
  | 1 => { s with exu := { s.exu with areaLow := v &&& 0xFFFF0000#32 } }
  | 2 => { s with exu := { s.exu with areaHigh := v } }
  | 3 => s.writeAreaSize v
  | 4 => s.writeControl v
  | 6 => s.clearEvents v
  | 7 => { s with exu := { s.exu with eventMask := v &&& eventBits } }
  | _ => s

/-- REGISTER_WRITE (R1): a write narrower than 32 bits is ignored, and so is one that is not aligned. -/
def execRegisterWrite (offset : BitVec 5) (width : Width) (v : Word) (s : State) : Result :=
  .next (match width with
    | .word => if offset.toNat % 4 = 0 then s.writeRegister (offset.toNat / 4) v else s
    | .byte | .half => s)

/-- The flash is idle: no operation is running and none has left the device busy. -/
def State.flashIdle (s : State) : Bool := s.fls.op.isNone && !s.fls.stalled

/-- The end of an engine reset is due (R26): the flash is idle, or 500 ms have passed. -/
def State.resetDue (s : State) : Bool :=
  s.exu.engine == .resetting && (s.flashIdle || s.exu.resetUntil.toNat ≤ s.sck.us.toNat)

/-- RESET_DONE (R26). An operation still under way after 500 ms is left to the device, whose status the next RUN
waits for (R153). -/
def execResetDone (s : State) : Result :=
  .next (if s.resetDue then
    State.setEvent { s with
      exu := { s.exu with engine := .off, fault := .none }
      fls := { s.fls with op := none, stalled := false } } .resetDone
  else s)

/-! ## Looks, answers, reports (R9 to R21) -/

/-- The scan timer has reached its next expiry (R9). -/
def State.scanDue (s : State) : Bool :=
  match s.exu.scanAt with
  | some t => s.sck.counting && reached s.now t
  | none => false

/-- SCAN_TIMER_EXPIRY (R9): a look, and the next expiry one scan period on. -/
def execScanTimerExpiry (s : State) : Result :=
  .next (match s.exu.scanAt with
    | some t =>
      if s.scanDue then
        State.causeLook { s with exu := { s.exu with scanAt := some (after t s.exu.scanPeriod) } }
      else s
    | none => s)

/-- LOOK (R9, R10, R21): the look that is due begins with its drain of the hold queue, then goes on to the order chain.
DESIGN CHOICE, log entry 35: a look that begins while a placement is under way joins it, without a fresh read of the
report chain pointer, and takes that placement's failure as the end of its own drain. -/
def execLook (s : State) : Result :=
  .next (if s.exu.engine = .running ∧ s.exu.look = .due then
    if s.exu.hold = [] then s.lookChain
    else
      { s with exu := { s.exu with
          look := .draining
          place := if s.exu.place = .idle then .due else s.exu.place } }
  else s)

/-- UNKNOWN_ORDER (R13): the order at the head of the Exchange Unit's list, of a kind that is not defined. -/
def execUnknownOrder (s : State) : Result :=
  .next (match s.headOrder .exu with
    | some o => if definedKind o.kind then s else s.refuse o .unknownOrder
    | none => s)

/-- An entry leaves the orders-in-flight list; one that lowers it from 16 to 15 entries causes a look (R9, R12). -/
def State.leaveFlight (s : State) (id : Nat) : State :=
  let full := s.exu.inFlight.length = Config.maxInFlight
  let s := { s with exu := { s.exu with inFlight := s.exu.inFlight.filter fun o => o.id != id } }
  if full ∧ s.exu.inFlight.length + 1 = Config.maxInFlight then s.causeLook else s

/-- The answer area of an answer: status, detail, two zero bytes, 28 bytes of result fields (R15, Table 11-3). -/
def Answer.bytes (a : Answer) : List Byte := [byteOf a.status.code, a.detail, 0, 0] ++ pad 28 a.results

/-- The writes of an answer: the answer area, then the state byte, whose value is fixed when it is issued (R14). -/
def answerAccesses (area : Area) (o : Order) (a : Answer) : List Access :=
  [⟨.answer, true, area.addr (o.offset + 16), 32, a.bytes, .answerArea⟩,
   ⟨.answer, true, area.addr (o.offset + 4), 1, [], .answerState o.offset⟩]

/-- ANSWER (R14): the answer handed over first is written, or discarded when its order is orphaned or the engine is not
RUNNING; its entry leaves the list. -/
def execAnswer (s : State) : Result :=
  .next (match s.exu.answers with
    | [] => s
    | a :: rest =>
      let s := { s with exu := { s.exu with answers := rest } }
      match s.orderOf a.order with
      | none => s
      | some o =>
        let s := s.leaveFlight o.id
        if o.orphaned || s.exu.engine != .running then s
        else s.request (answerAccesses s.exu.area o a))

/-- REPORT_ARRIVAL (R21). -/
def execReportArrival (s : State) : Result :=
  .next (match s.exu.arrivals with
    | [] => s
    | r :: rest => State.reportReaches { s with exu := { s.exu with arrivals := rest } } r)

/-- PLACEMENT (R20): the placement that is due reads the chain pointer of the position block, or the report head field
while the position is the anchor. -/
def execPlacement (s : State) : Result :=
  .next (if s.exu.engine = .running ∧ s.exu.place = .due then
    let off := match s.exu.reportPos with
      | .block c => c
      | .anchor | .nowhere => 8
    State.request { s with exu := { s.exu with place := .pointer } }
      (readAccesses .report s.exu.area off 4 .placePointer)
  else s)

/-! ## Exchange orders (R17 to R19) -/

/-- NOP (kind 0x00, R17). -/
def execNop (s : State) : Result := workOrder .exu 0x00 (fun o s => s.accept o []) s

/-- The result fields of ENGINE_INFO (R17). DESIGN CHOICE, log entry 36: the active slot, the slot state and the trial
starts remaining are those of the copy at that moment, so after a COMMIT_IMAGE those of the commit. -/
def State.engineInfo (s : State) : List Byte :=
  le 4 Config.ident.toNat ++ le 4 s.now.toNat ++ [128] ++ le 2 1024 ++ [64, 16, 7, 16, 32,
    byteOf s.fls.slot.active.code, flagByte s.fls.slot.trial, byteOf s.fls.slot.remaining] ++ le 4 s.activeId.toNat
    ++ [byteOf s.ups.state.code]

/-- ENGINE_INFO (kind 0x01, R17). -/
def execEngineInfo (s : State) : Result := workOrder .exu 0x01 (fun o s => s.accept o s.engineInfo) s

/-- READ_TABLE (kind 0x02, R18): table, start, count, destination, capacity. -/
def execReadTable (s : State) : Result :=
  workOrder .exu 0x02 (fun o s =>
    let table := o.u8 0
    let start := o.u16 1
    let count := o.u16 3
    let dest := o.u32 5
    let capacity := o.u32 9
    if 6 < table ∨ count = 0 ∨ s.tableSize table ≤ start ∨ capacity < entrySize table then s.refuse o .badParam
    else if !usable o.area dest capacity then s.refuse o .areaError
    else s.tableStart o table start (min count (s.tableSize table - start)) capacity dest) s

/-- READ_MORE (kind 0x03, R19): destination, capacity. -/
def execReadMore (s : State) : Result :=
  workOrder .exu 0x03 (fun o s =>
    let dest := o.u32 0
    let capacity := o.u32 4
    let fits := match s.exu.readPos with
      | some r => o.predecessor == some r.order && r.remaining != 0
      | none => false
    match s.exu.readPos with
    | some r =>
      if fits then
        if capacity < entrySize r.table then s.refuse o .badParam
        else if !usable o.area dest capacity then s.refuse o .areaError
        else s.tableStart o r.table r.next r.remaining capacity dest
      else State.refuse { s with exu := { s.exu with readPos := none } } o .sequence
    | none => s.refuse o .sequence) s

end Sys2Proof.Machine
end

