-- ==== Sys2Proof/Machine/Handoff.lean ====
section
/-!
DEFINITION. The Handoff Controller: its orders, its timers, and the messages it takes (chapter 9).
-/

namespace Sys2Proof.Machine

open Sys2Proof

/-! ## Configuration and triggers (R135 to R137) -/

/-- The configuration a SET_ROAMING writes (R135): check interval, trigger, run-on, listen window, query deadline, load
weight, base margin, game extra, critical, arrival window. -/
def roamingOf (o : Order) : Roaming :=
  let listen := clamp 100 1000 (o.u16 5)
  { checkInterval := clamp 50 2000 (o.u16 0)
    trigger := clampInt (-90) (-40) (signed16 (o.u16 2))
    runOn := clamp 1 20 (o.u8 4)
    listenWindow := listen
    queryDeadline := max (listen + 100) (clamp 200 2000 (o.u16 7))
    loadWeight := clamp 0 64 (o.u8 9)
    baseMargin := clamp 0 20 (o.u8 10)
    gameExtra := clamp 0 20 (o.u8 11)
    critical := clampInt (-85) (-50) (signed16 (o.u16 12))
    arrivalWindow := clamp 2000 60000 (o.u16 14) }

/-- The ten values as result fields. -/
def Roaming.bytes (c : Roaming) : List Byte :=
  le 2 c.checkInterval ++ le 2 (code16 c.trigger) ++ [byteOf c.runOn] ++ le 2 c.listenWindow ++ le 2 c.queryDeadline
    ++ [byteOf c.loadWeight, byteOf c.baseMargin, byteOf c.gameExtra] ++ le 2 (code16 c.critical) ++ le 2 c.arrivalWindow

/-- SET_ROAMING (kind 0x70, R135): the check timer restarts. -/
def execSetRoaming (s : State) : Result :=
  workOrder .hoc 0x70 (fun o s =>
    let c := roamingOf o
    State.accept { s with hoc := { s.hoc with roaming := c, checkAt := after s.now c.checkInterval } } o c.bytes) s

/-- The check timer has expired (R136). -/
def State.checkDue (s : State) : Bool := s.sck.counting && reached s.now s.hoc.checkAt

/-- Steps 1 and 2 of a check event for a record with this average (R136). -/
def Station.checked (c : Roaming) (r : Station) (avg : Int) : Station :=
  { r with
    requery := if 16 * c.trigger + 48 ≤ avg then 2 else r.requery
    runOn := if avg < 16 * c.trigger then min 20 (r.runOn + 1) else 0 }

/-- The conditions of step 3 of a check event (R136). -/
def State.queryStarts (s : State) (r : Station) : Bool :=
  s.hoc.roaming.runOn ≤ r.runOn && reached s.now r.nextQuery && !s.holding && s.meshEnabled

/-- What a check event does with one record (R136). -/
def State.checkStation (s : State) (i : StaIx) : State :=
  let r := s.sta i
  match r.state, r.handoff, r.signal with
  | .active, none, some avg =>
    let s := s.setSta i (r.checked s.hoc.roaming avg)
    if s.queryStarts (s.sta i) then s.startQuery i else s
  | _, _, _ => s

/-- CHECK_EVENT (R136). -/
def execCheckEvent (s : State) : Result :=
  .next (if s.checkDue then
    (List.finRange 128).foldl State.checkStation
      { s with hoc := { s.hoc with checkAt := after s.hoc.checkAt s.hoc.roaming.checkInterval } }
  else s)

/-! ## Messages -/

/-- The meaning of a message: take the message delivered first when it is of this kind; else there is nothing to take
(log entry 2). -/
def workMessage (kind : Nat) (f : Msg → State → State) (s : State) : Result :=
  .next (match s.hoc.messages with
    | [] => s
    | m :: rest => if m.kind = kind then f m { s with hoc := { s.hoc with messages := rest } } else s)

/-- The handoff id of a message body. -/
def Msg.id (m : Msg) : HandoffId := handoffIdAt m.body 0

/-- The MAC that follows the handoff id. -/
def Msg.mac (m : Msg) : Mac := macAt m.body 4

/-! ## Queries (R138, R139) -/

/-- The listen list takes new entries. -/
def State.setListen (s : State) (l : List Listen) : State := { s with hoc := { s.hoc with listen := l } }

/-- SIGNAL_QUERY (R139). -/
def execSignalQuery (s : State) : Result :=
  workMessage kSignalQuery (fun m s =>
    let mac := macAt m.body 0
    if s.hoc.listen.any fun e => e.mac == mac && e.node == m.sender then s
    else if Config.maxListen ≤ s.hoc.listen.length then s.sendTo m.sender kSignalReport (s.reportBody mac none true)
    else s.setListen (s.hoc.listen ++ [⟨mac, m.sender, after s.now (clamp 100 1000 (beAt m.body 6 2)), none⟩])) s

/-- OVERHEARD_SAMPLE (R139). -/
def execOverheardSample (mac : Mac) (sample : Int) (s : State) : Result :=
  .next (s.setListen (s.hoc.listen.map fun e =>
    if e.mac = mac then { e with average := some (signalStep e.average sample) } else e))

/-- LISTEN_WINDOW_END (R139). -/
def execListenWindowEnd (mac : Mac) (n : Node) (s : State) : Result :=
  .next (match takeFirst (fun e => e.mac == mac && e.node == n) s.hoc.listen with
    | some (e, rest) =>
      if reached s.now e.until_ then (s.setListen rest).sendTo n kSignalReport (s.reportBody mac e.average false) else s
    | none => s)

/-- What a SIGNAL_REPORT leaves in the entry of its sender (R138). DEDUCED, log entry 26: bits 7 to 2 of its flags byte
are ignored. -/
def Candidate.answer (c : Candidate) (b : List Byte) : Candidate :=
  { c with
    answered := true
    heard := if (byteAt b 9).getLsbD 1 then none else signalOf (beAt b 6 2)
    load := (byteAt b 8).toNat
    hold := (byteAt b 9).getLsbD 0 }

/-- A report fills the entry of its sender; the one that leaves none unanswered closes the table (R138). -/
def State.reportTaken (s : State) (i : StaIx) (q : Query) (m : Msg) : State :=
  if q.entries.any fun c => c.node == m.sender && !c.answered then
    let entries := q.entries.map fun c => if c.node = m.sender then c.answer m.body else c
    let s := s.setSta i { s.sta i with query := some { q with entries := entries } }
    if entries.all Candidate.answered then s.closeQuery i else s
  else s

/-- SIGNAL_REPORT (R138). -/
def execSignalReport (s : State) : Result :=
  workMessage kSignalReport (fun m s =>
    match s.findMac (macAt m.body 0) with
    | some i =>
      match (s.sta i).state, (s.sta i).query with
      | .watched, some q => s.reportTaken i q m
      | _, _ => s
    | none => s) s

/-- QUERY_DEADLINE (R138). -/
def execQueryDeadline (i : StaIx) (s : State) : Result :=
  .next (match (s.sta i).state, (s.sta i).query with
    | .watched, some q => if reached s.now q.deadline then s.closeQuery i else s
    | _, _ => s)

/-! ## The offer at the target (R142) -/

/-- What an OFFER meets at the target (R142). -/
inductive OfferCase where
  | decline (reason : Byte) | accept | reserve (i : StaIx)
deriving DecidableEq, Repr

/-- The first case of R142's table that applies. DESIGN CHOICE, log entry 26: the MAC itself is not judged; R142 has no
case for a group or all-zero MAC. -/
def State.offerCase (s : State) (id : HandoffId) (mac : Mac) : OfferCase :=
  if s.holding then .decline reasonUpdating
  else match s.findHandoff id (· == .reserved) none with
    | some _ => .accept
    | none =>
      match s.findMac mac with
      | some i => .decline (if (s.sta i).state = .reserved then reasonBusy else reasonDuplicate)
      | none =>
        match s.freeIndex with
        | none => .decline reasonNoRoom
        | some i => .reserve i

/-- OFFER (R142). DESIGN CHOICE, log entry 22: an ACCEPT carries the MAC of the OFFER it answers, also where the record
already RESERVED under the id holds another MAC; R142 matches that record by its id alone and does not say. -/
def execOffer (s : State) : Result :=
  workMessage kOffer (fun m s =>
    match s.offerCase m.id m.mac with
    | .decline reason => s.sendTo m.sender kDecline (idMacBody m.id m.mac ++ [reason])
    | .accept => s.sendTo m.sender kAccept (idMacBody m.id m.mac)
    | .reserve i => (s.reserve i m.sender m.body).sendTo m.sender kAccept (idMacBody m.id m.mac)) s

/-! ## The offer at the origin (R143) -/

/-- A record holds a handoff id, in its sub-record or for its settle exchange. -/
def Station.holdsId (id : HandoffId) (r : Station) : Bool :=
  (match r.handoff with
    | some h => h.id == id
    | none => false)
  || (match r.forward.bind Forward.settle with
    | some w => w.id == id
    | none => false)

/-- The record becomes MOVING (R143). -/
def State.beginMove (s : State) (i : StaIx) (h : Handoff) : State :=
  let r := s.sta i
  let deadline := after s.now (s.hoc.roaming.arrivalWindow + 2000)
  let s := s.setSta i { r with
    state := .moving
    handoff := some { h with tries := 0, deadline := deadline }
    held := some [] }
  (s.giveReport .steer i.val ([byteOf h.peer.val] ++ macBytes r.mac ++ h.id.leBytes)).endForced i .ok 0

/-- ACCEPT (R143). -/
def execAccept (s : State) : Result :=
  workMessage kAccept (fun m s =>
    match s.findHandoff m.id (· == .offering) (some m.sender) with
    | some (i, h) => s.beginMove i h
    | none =>
      if s.stt.recs.toList.any (Station.holdsId m.id) then s
      else s.sendTo m.sender kWithdraw (idMacBody m.id m.mac)) s

/-- DECLINE (R143). -/
def execDecline (s : State) : Result :=
  workMessage kDecline (fun m s =>
    match s.findHandoff m.id (· == .offering) (some m.sender) with
    | some (i, h) => s.offerFails i h (byteAt m.body 10) false
    | none => s) s

/-! ## Retries (R132) -/

/-- The sub-record after the next send, with the wait doubled for each send made before. -/
def Handoff.resent (h : Handoff) (now : Ms) (base : Nat) : Handoff :=
  { h with tries := h.tries + 1, deadline := after now (base * 2 ^ h.tries) }

/-- The expiry of a wait of an offer (R132, R143). -/
def State.offerRetry (s : State) (i : StaIx) (h : Handoff) : State :=
  if h.tries < 3 then
    (s.setSta i { s.sta i with handoff := some (h.resent s.now 100) }).sendTo h.peer kOffer h.body
  else s.offerFails i h reasonTimeout true

/-- The expiry of a wait of a withdrawal (R132, R149). -/
def State.withdrawRetry (s : State) (i : StaIx) (h : Handoff) : State :=
  if h.tries < 3 then
    (s.setSta i { s.sta i with handoff := some (h.resent s.now 100) }).sendTo h.peer kWithdraw (idMacBody h.id (s.sta i).mac)
  else s.returnStation i h reasonTimeout

/-- The expiry of a wait of a CONFIRM (R132, R145). -/
def State.confirmRetry (s : State) (i : StaIx) (h : Handoff) : State :=
  if h.tries < 3 then
    let g := { h with tries := h.tries + 1, wait := some (after s.now (100 * 2 ^ h.tries)) }
    (s.setSta i { s.sta i with handoff := some g }).sendTo h.peer kConfirm (idMacBody h.id (s.sta i).mac)
  else s.setSta i { s.sta i with handoff := some { h with wait := none } }

/-- The expiry of a wait of a SETTLE (R132, R147). -/
def State.settleRetry (s : State) (i : StaIx) (f : Forward) (w : SettleWait) : State :=
  if w.tries < 3 then
    let v := { w with tries := w.tries + 1, wait := after s.now (50 * 2 ^ w.tries) }
    (s.setSta i { s.sta i with forward := some { f with settle := some v } }).sendTo f.peer kSettle
      (settleBody w.id (s.sta i).mac w.u1 w.day)
  else
    (s.setSta i { s.sta i with forward := some { f with settle := none } }).giveReport .settleLost i.val
      ([byteOf f.peer.val] ++ w.id.leBytes)

/-- The end of the retry wait that runs for a record, if one runs. -/
def Station.retryAt (r : Station) : Option Ms :=
  match r.state with
  | .offering | .withdrawing => r.handoff.map Handoff.deadline
  | .active => r.handoff.bind Handoff.wait
  | .left => (r.forward.bind Forward.settle).map SettleWait.wait
  | .free | .watched | .moving | .reserved => none

/-- RETRY_WAIT_EXPIRY (R132): the record's exchange makes its next send, or fails after the third wait. -/
def execRetryWaitExpiry (i : StaIx) (s : State) : Result :=
  .next (
    let r := s.sta i
    match r.retryAt with
    | none => s
    | some t =>
      if reached s.now t then
        match r.state, r.handoff, r.forward with
        | .offering, some h, _ => s.offerRetry i h
        | .withdrawing, some h, _ => s.withdrawRetry i h
        | .active, some h, _ => s.confirmRetry i h
        | .left, _, some f =>
          match f.settle with
          | some w => s.settleRetry i f w
          | none => s
        | _, _, _ => s
      else s)

/-! ## Deadlines (R145 to R147, R149) -/

/-- The sub-record of a record in a state, when its deadline has been reached. -/
def State.pastDeadline (s : State) (i : StaIx) (p : StaState) : Option Handoff :=
  let r := s.sta i
  if r.state = p then r.handoff.filter fun h => reached s.now h.deadline else none

/-- MOVE_DEADLINE (R149). -/
def execMoveDeadline (i : StaIx) (s : State) : Result :=
  .next (match s.pastDeadline i .moving with
    | some h =>
      (s.setSta i { s.sta i with
        state := .withdrawing
        handoff := some { h with tries := 1, deadline := after s.now 100 } }).sendTo h.peer kWithdraw
          (idMacBody h.id (s.sta i).mac)
    | none => s)

/-- SETTLE_WAIT_END (R145). -/
def execSettleWaitEnd (i : StaIx) (s : State) : Result :=
  .next (match s.pastDeadline i .active with
    | some _ => s.setSta i { s.sta i with handoff := none }
    | none => s)

/-- ARRIVAL_DEADLINE (R146). -/
def execArrivalDeadline (i : StaIx) (s : State) : Result :=
  .next (match s.pastDeadline i .reserved with
    | some h => (s.freeStation i).giveReport .reservationExpired i.val ([byteOf h.peer.val] ++ h.id.leBytes)
    | none => s)

/-- GRACE_DEADLINE (R147). -/
def execGraceDeadline (i : StaIx) (s : State) : Result :=
  .next (match (s.sta i).state, (s.sta i).forward with
    | .left, some f =>
      if reached s.now f.grace then (s.freeStation i).giveReport .stationGone i.val [byteOf f.peer.val] else s
    | _, _ => s)

/-! ## Confirm, settle, withdraw (R146 to R149) -/

/-- CONFIRM (R147). -/
def execConfirm (s : State) : Result :=
  workMessage kConfirm (fun m s =>
    match s.findHandoff m.id (fun g => g == .moving || g == .withdrawing) (some m.sender) with
    | some (i, h) => s.completeMove i h
    | none => s) s

/-- The minutes of a SETTLE are applied (R148). -/
def State.settles (s : State) (h : Handoff) (day : Option Word) : Bool :=
  !h.settled && day.isSome && day == h.day && day == s.stampNow

/-- The SETTLE_ACK body (Table 11-5). -/
def ackBody (id : HandoffId) (applied : Bool) : List Byte := id.beBytes ++ [flagByte applied]

/-- A SETTLE for an id held by a sub-record: the CONFIRM exchange ends, and the minutes are applied where they may be. -/
def State.settleTaken (s : State) (i : StaIx) (h : Handoff) (u1 : Nat) (day : Option Word) : State :=
  let r := s.sta i
  if s.settles h day then
    (s.setSta i { r with
      used := min 1440 (r.used + (u1 - h.u0))
      handoff := some { h with settled := true, wait := none } }).recomputeSpent i
  else s.setSta i { r with handoff := some { h with wait := none } }

/-- SETTLE (R148). -/
def execSettle (s : State) : Result :=
  workMessage kSettle (fun m s =>
    let day := dayAt m.body 12
    match s.findHandoff m.id (· == .active) none with
    | some (i, h) => (s.settleTaken i h (beAt m.body 10 2) day).sendTo m.sender kSettleAck (ackBody m.id (s.settles h day))
    | none => s.sendTo m.sender kSettleAck (ackBody m.id false)) s

/-- The LEFT record whose settle exchange holds an id. -/
def State.findSettle (s : State) (id : HandoffId) : Option (StaIx × Forward) :=
  (List.finRange 128).findSome? fun i =>
    match (s.sta i).state, (s.sta i).forward with
    | .left, some f =>
      match f.settle with
      | some w => if w.id = id then some (i, f) else none
      | none => none
    | _, _ => none

/-- SETTLE_ACK (R147). -/
def execSettleAck (s : State) : Result :=
  workMessage kSettleAck (fun m s =>
    match s.findSettle m.id with
    | some (i, f) => s.setSta i { s.sta i with forward := some { f with settle := none } }
    | none => s) s

/-- A station of the MAC is here: ACTIVE, WATCHED or OFFERING (R146). -/
def State.stationHere (s : State) (mac : Mac) : Bool :=
  match s.findMac mac with
  | some i =>
    match (s.sta i).state with
    | .active | .watched | .offering => true
    | .free | .moving | .withdrawing | .left | .reserved => false
  | none => false

/-- WITHDRAW (R146). DESIGN CHOICE, log entry 22: a WITHDRAW_ACK carries the MAC of the WITHDRAW and goes to its sender,
also where the RESERVED record matched by the id alone holds another MAC or names another origin (an id used again after
the origin's reset, R133); R146, R149 and Table 11-5 do not say which. -/
def execWithdraw (s : State) : Result :=
  workMessage kWithdraw (fun m s =>
    match s.findHandoff m.id (· == .reserved) none with
    | some (i, _) => (s.freeStation i).sendTo m.sender kWithdrawAck (idMacBody m.id m.mac)
    | none =>
      s.sendTo m.sender (if s.stationHere m.mac then kConfirm else kWithdrawAck) (idMacBody m.id m.mac)) s

/-- WITHDRAW_ACK (R149). -/
def execWithdrawAck (s : State) : Result :=
  workMessage kWithdrawAck (fun m s =>
    match s.findHandoff m.id (· == .withdrawing) (some m.sender) with
    | some (i, h) => s.returnStation i h reasonWithdrawn
    | none => s) s

/-! ## Forced handoff (R150) -/

/-- FORCE_HANDOFF (kind 0x71, R150): station index, peer node number. The order ends when its offer ends. -/
def execForceHandoff (s : State) : Result :=
  workOrder .hoc 0x71 (fun o s =>
    match finOf 128 (o.u8 0), finOf 8 (o.u8 1) with
    | some i, some n =>
      let r := s.sta i
      if r.state = .free || s.holding || !s.meshEnabled || !s.peerPresent n then s.refuse o .refusedState
      else if r.state = .active && r.handoff.isNone then
        let s := (s.mark o.id .working).beginOffer i n
        { s with hoc := { s.hoc with forced := some (i, o.id) } }
      else s.refuse o .again
    | _, _ => s.refuse o .badParam) s

end Sys2Proof.Machine
end

