-- ==== Sys2Proof/Machine/Update.lean ====
section
/-!
DEFINITION. The orders of the Update Stager, its messages, timers and serves, and what ends a piece of its bulk or flash
work (chapter 10).
-/

namespace Sys2Proof.Machine

open Sys2Proof

/-! ## Working an order of the stager (R153, R156, R161) -/

/-- The meaning of an order of the stager: as for any block, but orders wait until the slot record check has ended
(R153). -/
def workStager (k : Byte) (f : Order → State → State) (s : State) : Result :=
  .next (if s.fls.boot = .done then
    match s.freshHead .ups k with
    | some o => f o s
    | none => s
  else s)

/-- The meaning of an order that a CANCEL_STAGING may have withdrawn: it is answered CANCELLED in its turn (R161). -/
def workStaging (k : Byte) (f : Order → State → State) (s : State) : Result :=
  .next (if s.fls.boot = .done then
    match s.headOrder .ups with
    | some o =>
      if o.kind = k then
        match o.progress with
        | .fresh => f o s
        | .cancelled => s.refuse o .cancelled
        | .working | .cancelNothing | .cancelRefused | .cancelErasing | .cancelErased | .cancelFailed => s
      else s
    | none => s
  else s)

/-! ## BEGIN_STAGING (R157, R172) -/

/-- BEGIN_STAGING (kind 0x80, R157): manifest offset. -/
def execBeginStaging (s : State) : Result :=
  workStaging 0x80 (fun o s =>
    if s.fls.slot.trial then s.finish o.id .refusedState reasonTrialPending []
    else if s.ups.state ≠ .idle ∧ s.ups.state ≠ .complete then s.refuse o .refusedState
    else if !usable o.area (o.u32 0) 12 then s.refuse o .areaError
    else ((s.mark o.id .working).setWork (.beginHead o.id [])).bulkRead o (o.u32 0) 12) s

/-- The 12 bytes of a manifest's head are in (R172). -/
def State.manifestHeadIn (s : State) (o : Order) (b : List Byte) : State :=
  let size := manifestSize (leAt b 8 2)
  if !manifestHeadOk b then s.endWork o.id .badParam 0 []
  else if !usable o.area (o.u32 0) size then s.endWork o.id .areaError 0 []
  else (s.setWork (.beginBody o.id size [])).bulkRead o (o.u32 0) size

/-- The whole manifest is in (R157 steps 3 and 4): the earlier staging's fetch, assemblies and serves end and the first
manifest sector is erased. DESIGN CHOICE, log entry 28: BEGIN_STAGING removes the serve entries of other images here, once,
as step 4 begins (R163). DESIGN CHOICE, log entry 18: sector 0 is the first erased, where R157 says only that both are. -/
def State.manifestIn (s : State) (id : Nat) (b : List Byte) : State :=
  match manifestOf b with
  | none => s.endWork id .badParam 0 []
  | some m =>
    if m.id = s.activeId then s.endWork id .duplicate 0 []
    else
      let s := { s with ups := { s.ups with fetch := none, bufs := .replicate 4 none } }
      (s.dropServes.setWork (.beginErase id 0 b)).flashRequest (flashErase .staging (slotBase s.stagingSlot) .work)

/-- The program of page k of the manifest (R157 step 4). DESIGN CHOICE, log entry 18: the pages are programmed in rising
order from page 0, after both erases; R157 gives the pages no order. -/
def State.programManifest (s : State) (id : Nat) (b : List Byte) (k : Nat) : State :=
  (s.setWork (.beginProgram id k b)).flashRequest
    (flashProgram .staging (slotBase s.stagingSlot + 256 * k) ((b.drop (256 * k)).take 256) .work)

/-- A flash failure in BEGIN_STAGING leaves IDLE with no manifest copy (R157 step 4). -/
def State.beginFails (s : State) (id : Nat) : State :=
  State.endWork { s with ups := { s.ups with state := .idle, manifest := none, map := [] } } id .flashError 0 []

/-- The manifest has been written (R157 step 5). -/
def State.beginDone (s : State) (id : Nat) (b : List Byte) : State :=
  match manifestOf b with
  | some m =>
    State.endWork
      { s with ups := { s.ups with
          manifest := some m, map := List.replicate m.count .missing, state := .staging } }
      id .ok 0 (le 4 m.id.toNat ++ le 2 m.count)
  | none => s.beginFails id

/-! ## STAGE_CHUNK (R159) -/

/-- STAGE_CHUNK (kind 0x81, R159): chunk number, data offset. -/
def execStageChunk (s : State) : Result :=
  workStaging 0x81 (fun o s =>
    let chunk := o.u16 0
    let offset := o.u32 2
    match s.ups.state, s.ups.manifest with
    | .staging, some m =>
      if m.count ≤ chunk then s.refuse o .badParam
      else match s.ups.map.getD chunk .missing with
        | .present => s.refuse o .duplicate
        | .writing => s.refuse o .again
        | .missing =>
          if !usable o.area offset (m.chunkLen chunk) then s.refuse o .areaError
          else
            let s := s.mark o.id .working
            match firstIx s.ups.bufs Option.isNone with
            | some b => s.stageInto b o.id chunk offset
            | none => s.setWork (.stageWait o.id chunk offset)
    | _, _ => s.refuse o .refusedState) s

/-- The buffer a STAGE_CHUNK reads into. -/
def State.bufOf (s : State) (id : Nat) : Option (Fin 4) :=
  firstIx s.ups.bufs fun b => match b with
    | some x => x.order == some id && x.phase == .reading
    | none => false

/-- A piece of a STAGE_CHUNK's data is in; with the whole chunk in, it is written (R159, R158). -/
def State.stageIn (s : State) (id : Nat) (data : List Byte) : State :=
  match s.bufOf id with
  | none => s
  | some b =>
    match s.ups.bufs.get b with
    | none => s
    | some x =>
      let y := { x with data := x.data ++ data }
      if s.bulkWaiting id then s.setBuf b (some y) else s.writeChunk b y

/-! ## RESUME_STAGING (R160) -/

/-- The read of a slot's manifest, from its first byte or after the first sector (R153). -/
def manifestRead (c : FlashClass) (sl : Slot) (got : List Byte) (w : FlashOwner) : FlashOp :=
  if got = [] then flashRead c (slotBase sl) 4096 w
  else flashRead c (slotBase sl + 4096) (manifestSize (leAt got 8 2) - 4096) w

/-- A manifest of which these bytes have been read goes on into the second sector. -/
def manifestGoesOn (got : List Byte) : Bool :=
  got.length == 4096 && manifestHeadOk got && 4096 < manifestSize (leAt got 8 2)

/-- RESUME_STAGING (kind 0x82, R160). -/
def execResumeStaging (s : State) : Result :=
  workStaging 0x82 (fun o s =>
    if s.fls.slot.trial then s.finish o.id .refusedState reasonTrialPending []
    else if s.ups.state ≠ .idle then s.refuse o .refusedState
    else ((s.mark o.id .working).setWork (.resume o.id [])).flashRequest
      (manifestRead .staging s.stagingSlot [] .work)) s

/-- The rescan's read of chunk k (R160). -/
def State.rescanChunk (s : State) (m : Manifest) (id k : Nat) : State :=
  (s.setWork (.rescan id k)).flashRequest (flashRead .staging (chunkAddr s.stagingSlot k) (m.chunkLen k) .work)

/-- Bytes of the staging slot's manifest are in (R160). -/
def State.resumeIn (s : State) (id : Nat) (got : List Byte) : State :=
  if manifestGoesOn got then
    (s.setWork (.resume id got)).flashRequest (manifestRead .staging s.stagingSlot got .work)
  else match manifestOf got with
    | none => s.endWork id .notFound 0 []
    | some m =>
      if m.id = s.activeId then s.endWork id .notFound 0 []
      else State.rescanChunk
        { s with ups := { s.ups with
            manifest := some m, map := List.replicate m.count .missing, state := .rescanning } } m id 0

/-- The rescan ends (R160). -/
def State.rescanEnds (s : State) (id : Nat) : State :=
  let s := if s.chunksHeld = s.ups.map.length then s.complete
    else { s with ups := { s.ups with state := .staging } }
  s.endWork id .ok 0 ([byteOf s.ups.state.code] ++ le 4 s.stagingId.toNat ++ le 2 s.chunksHeld)

/-- The rescan's read of chunk k is in (R160). -/
def State.rescanIn (s : State) (id k : Nat) (data : List Byte) : State :=
  match s.ups.manifest with
  | none => s.endWork id .notFound 0 []
  | some m =>
    let s := if crc32 data = m.crc k then s.setChunk k .present else s
    if k + 1 < m.count then s.rescanChunk m id (k + 1) else s.rescanEnds id

/-! ## CANCEL_STAGING (R161) -/

/-- CANCEL_STAGING (kind 0x83, R161): what it does happened when it joined the list; here it is answered in its turn. -/
def execCancelStaging (s : State) : Result :=
  .next (if s.fls.boot = .done then
    match s.headOrder .ups with
    | some o =>
      if o.kind = 0x83 then
        match o.progress with
        | .fresh => s.cancelJoins o.id
        | .cancelNothing | .cancelErased => s.accept o []
        | .cancelRefused => s.refuse o .refusedState
        | .cancelFailed => s.refuse o .flashError
        | .working | .cancelled | .cancelErasing => s
      else s
    | none => s
  else s)

/-! ## The fetch (R162) -/

/-- FETCH_FROM_PEERS (kind 0x84, R162). -/
def execFetchFromPeers (s : State) : Result :=
  workStager 0x84 (fun o s =>
    if s.ups.state ≠ .staging then s.refuse o .refusedState
    else match s.ups.fetch with
      | some _ => s.refuse o .duplicate
      | none => (s.accept o []).selectSource ⟨none, [], none, none⟩) s

/-- BATCH_DEADLINE (R162). -/
def execBatchDeadline (s : State) : Result :=
  .next (match s.ups.fetch with
    | some f =>
      match f.deadline with
      | some t => if reached s.now t then s.selectSource f else s
      | none => s
    | none => s)

/-- SELECTION_RETRY (R162). -/
def execSelectionRetry (s : State) : Result :=
  .next (match s.ups.fetch with
    | some f =>
      match f.retryAt with
      | some t => if reached s.now t then s.selectSource f else s
      | none => s
    | none => s)

/-- The meaning of a chunk message: take the message delivered first when it is of this kind. -/
def workChunkMessage (kind : Nat) (f : Msg → State → State) (s : State) : Result :=
  .next (match s.ups.messages with
    | [] => s
    | m :: rest => if m.kind = kind then f m { s with ups := { s.ups with messages := rest } } else s)

/-- The length of fragment f of a chunk of `len` bytes, when the chunk has such a fragment (R162). -/
def fragmentLen (len f : Nat) : Option Nat :=
  if f < ceilDiv len 1024 then some (min 1024 (len - 1024 * f)) else none

/-- The buffer holding the open assembly of a chunk. -/
def State.assemblyOf (s : State) (chunk : Nat) : Option (Fin 4) :=
  firstIx s.ups.bufs fun b => match b with
    | some x => x.chunk == chunk && (match x.phase with
      | .assembling _ _ => true
      | .reading | .erasing | .programming _ | .verifying => false)
    | none => false

/-- A fragment is put into an assembly; a whole assembly is written (R162, R158). -/
def State.fillFragment (s : State) (b : Fin 4) (chunk : Nat) (places : List (Option (List Byte))) (opened : Ms) (f : Nat)
    (data : List Byte) : State :=
  let places := if (places.getD f none).isSome then places else places.set f (some data)
  if places.all Option.isSome then
    s.writeChunk b ⟨chunk, (places.map fun p => p.getD []).flatten, none, .assembling places opened⟩
  else s.setBuf b (some ⟨chunk, [], none, .assembling places opened⟩)

/-- A fragment that fits its chunk is taken (R162). -/
def State.takeFragment (s : State) (chunk len f : Nat) (data : List Byte) : State :=
  match s.assemblyOf chunk with
  | some b =>
    match s.ups.bufs.get b with
    | some x =>
      match x.phase with
      | .assembling places opened => s.fillFragment b chunk places opened f data
      | .reading | .erasing | .programming _ | .verifying => s
    | none => s
  | none =>
    match firstIx s.ups.bufs Option.isNone with
    | some b => s.fillFragment b chunk (List.replicate (ceilDiv len 1024) none) s.now f data
    | none => s

/-- CHUNK_DATA (R162). -/
def execChunkData (s : State) : Result :=
  workChunkMessage kChunkData (fun m s =>
    let chunk := beAt m.body 4 2
    let f := (byteAt m.body 6).toNat
    let data := m.body.drop 9
    match s.ups.state, s.ups.manifest with
    | .staging, some x =>
      if BitVec.ofNat 32 (beAt m.body 0 4) = x.id ∧ chunk < x.count ∧ s.ups.map.getD chunk .missing = .missing
          ∧ fragmentLen (x.chunkLen chunk) f = some data.length then
        s.takeFragment chunk (x.chunkLen chunk) f data
      else s
    | _, _ => s) s

/-- ASSEMBLY_TIMEOUT (R162). -/
def execAssemblyTimeout (b : Fin 4) (s : State) : Result :=
  .next (match s.ups.bufs.get b with
    | some x =>
      match x.phase with
      | .assembling _ opened => if pastBy s.now opened 1000 then s.freeBuf b else s
      | .reading | .erasing | .programming _ | .verifying => s
    | none => s)

/-- CHUNK_NONE (R162): one of the source with BUSY false makes the fetch move on. DESIGN CHOICE, log entry 28: the image
id it names is not compared; log entry 30: any nonzero BUSY byte is true. -/
def execChunkNone (s : State) : Result :=
  workChunkMessage kChunkNone (fun m s =>
    match s.ups.fetch with
    | some f => if f.source = some m.sender ∧ byteAt m.body 4 = 0 then s.selectSource f else s
    | none => s) s

/-! ## Serving (R163) -/

/-- The chunk numbers of a CHUNK_WANT. -/
def wantedChunks (b : List Byte) : List Nat := (List.range (byteAt b 4).toNat).map fun k => beAt b (5 + 2 * k) 2

/-- A servable chunk joins the serve list, or merges with its entry there; the list does not grow beyond 32. -/
def joinServe (l : List Serve) (e : Serve) : List Serve :=
  if l.contains e ∨ Config.maxServe ≤ l.length then l else l ++ [e]

/-- A CHUNK_NONE for chunks, if there are any. -/
def State.sendNone (s : State) (dest : Node) (id : Word) (busy : Bool) (chunks : List Nat) : State :=
  if chunks = [] then s else s.sendTo dest kChunkNone (noneBody id busy chunks)

/-- CHUNK_WANT (R163). DESIGN CHOICE, log entry 28: of the two CHUNK_NONE that one CHUNK_WANT may cause, the one of the
unservable chunks is sent first and the BUSY one second, an order R163 leaves open. -/
def execChunkWant (s : State) : Result :=
  workChunkMessage kChunkWant (fun m s =>
    let id : Word := BitVec.ofNat 32 (beAt m.body 0 4)
    let chunks := wantedChunks m.body
    let served := chunks.filter fun k => (s.servable id k).isSome
    let unservable := chunks.filter fun k => (s.servable id k).isNone
    let list := (served.map fun k => (⟨m.sender, id, k⟩ : Serve)).foldl joinServe s.ups.serves
    let full := served.filter fun k => !list.contains ⟨m.sender, id, k⟩
    let s := { s with ups := { s.ups with serves := list } }
    (s.sendNone m.sender id false unservable).sendNone m.sender id true full) s

/-- A serve may start: none is under way, the list has an entry and the gap has passed (R163). DESIGN CHOICE, log entry
28: a serve also waits until the one before has ended; R163 bounds the starts only, one at a time and a gap apart. -/
def State.serveReady (s : State) : Bool :=
  s.ups.serving.isNone && !s.ups.serves.isEmpty && (match s.ups.lastServe with
    | some t => s.ups.serveGap * 1000 ≤ (s.sck.us - t).toNat
    | none => true)

/-- SERVE_START (R163). DESIGN CHOICE, log entry 28: an entry dropped without a message is not a serve, so the gap of the
next entry still runs from the serve before. -/
def execServeStart (s : State) : Result :=
  .next (match s.ups.serves with
    | [] => s
    | e :: rest =>
      if s.serveReady then
        let s := { s with ups := { s.ups with serves := rest } }
        match s.servable e.id e.chunk with
        | none => s
        | some (sl, m) =>
          if s.peerPresent e.node then
            State.flashRequest { s with ups := { s.ups with serving := some e, lastServe := some s.sck.us } }
              (flashRead .serve (chunkAddr sl e.chunk) (m.chunkLen e.chunk) .serve)
          else s
      else s)

/-- The chunk of the serve under way has been read (R163). DESIGN CHOICE, log entry 28: the whole chunk is read by one
read, and its fragments are sent in rising order in the step in which that read ends; R163 gives neither. -/
def State.serveIn (s : State) (data : List Byte) : State :=
  match s.ups.serving with
  | none => s
  | some e =>
    let r := State.sendFragments e data (List.range (ceilDiv data.length 1024)) s
    r.1.serveEnds r.2

/-! ## Install (R164, R165) -/

/-- SET_UPDATE_WINDOW (kind 0x85, R164): mask, start, end, hold limit, serve gap minimum. -/
def execSetUpdateWindow (s : State) : Result :=
  workStager 0x85 (fun o s =>
    let w : Window := ⟨BitVec.ofNat 7 (o.u8 0), o.u16 1, o.u16 3⟩
    let limit := clamp 1 120 (o.u8 5)
    let gap := clamp 5 1000 (o.u16 6)
    if 1439 < w.start ∨ 1439 < w.stop then s.refuse o .badParam
    else State.accept
      { s with ups := { s.ups with window := w, holdLimit := limit, gapMin := gap, serveGap := max gap s.ups.serveGap } } o
      (windowBytes w ++ [byteOf limit] ++ le 2 gap)) s

/-- A record in a state that bars an install (R164). -/
def StaState.bars : StaState → Bool
  | .offering | .moving | .withdrawing | .reserved => true
  | .free | .active | .watched | .left => false

/-- The deferral flags of a REQUEST_INSTALL, in the order of their detail bits (R164, R169). -/
def State.deferrals (s : State) : List Bool :=
  [s.ups.state != .complete, !s.sck.set, !s.windowOpen s.ups.window (s.sck.weekday, s.sck.minute), !s.gameQuiet,
    s.stt.recs.toList.any fun r => r.state.bars]

/-- A record at an install grant: WATCHED returns to ACTIVE without back-off (R151). -/
def Station.unwatched (r : Station) : Station :=
  if r.state = .watched then { r with state := .active, query := none, runOn := 0 } else r

/-- An install grant (R151, R164). -/
def State.grantInstall (s : State) : State :=
  { s with
    ups := { s.ups with state := .hold, holdMinutes := 0 }
    stt := { s.stt with recs := s.stt.recs.map Station.unwatched } }

/-- REQUEST_INSTALL (kind 0x86, R164): GRANTED is OK with detail 0 (R169). -/
def execRequestInstall (s : State) : Result :=
  workStager 0x86 (fun o s =>
    if s.holding then s.accept o []
    else if s.deferrals.any (·) then s.finish o.id .deferred (byteOf (flagBits s.deferrals)) []
    else s.grantInstall.accept o []) s

/-- The slot record a commit writes (R165). -/
def State.commitRecord (s : State) : SlotRecord :=
  let r := s.fls.slot
  { active := s.stagingSlot
    fallback := r.active
    trial := true
    remaining := 3
    idA := if s.stagingSlot = .a then s.stagingId else r.idA
    idB := if s.stagingSlot = .b then s.stagingId else r.idB }

/-- A slot record write begins for an order (R155). -/
def State.writeSlot (s : State) (o : Order) (r : SlotRecord) (commit : Bool) : State :=
  ((s.mark o.id .working).setWork (.slotErase o.id r commit)).eraseSlotRecord .work

/-- COMMIT_IMAGE (kind 0x87, R165). -/
def execCommitImage (s : State) : Result :=
  workStager 0x87 (fun o s => if s.holding then s.writeSlot o s.commitRecord true else s.refuse o .refusedState) s

/-- CANCEL_INSTALL (kind 0x88, R165). -/
def execCancelInstall (s : State) : Result :=
  workStager 0x88 (fun o s =>
    if s.holding then (s.endHold .cancelled).accept o [] else s.refuse o .refusedState) s

/-- CONFIRM_IMAGE (kind 0x89, R165). -/
def execConfirmImage (s : State) : Result :=
  workStager 0x89 (fun o s =>
    if s.fls.slot.trial then s.writeSlot o { s.fls.slot with trial := false, remaining := 0 } false
    else s.refuse o .refusedState) s

/-- The slot record write of a commit or confirm completes (R165). -/
def State.slotWritten (s : State) (id : Nat) (r : SlotRecord) (commit : Bool) : State :=
  let s := { s with fls := { s.fls with
    slot := r
    activeManifest := if commit then s.ups.manifest else s.fls.activeManifest } }
  (if commit then s.endHold .committed else s).endWork id .ok 0 []

/-- The slot record write of a commit or confirm fails (R165): a hold whose count has reached the limit ends. -/
def State.slotFails (s : State) (id : Nat) (commit : Bool) : State :=
  let s := s.endWork id .flashError 0 []
  if commit && s.holding && s.ups.holdLimit ≤ s.ups.holdMinutes then s.endHold .expired else s

/-- The slot record write of a commit is under way. -/
def State.committing (s : State) : Bool :=
  match s.ups.work with
  | .slotErase _ _ c | .slotProgram _ _ c => c
  | _ => false

/-- HOLD_MINUTE_COUNT (R165): a minute event at the stager. DESIGN CHOICE, log entry 22: where a SET_UPDATE_WINDOW has
lowered the hold limit to or below the minutes already counted, the hold ends at the next minute event, since the count
is then at or above the limit; R165 names only a minute that brings the count to the limit. -/
def execHoldMinuteCount (s : State) : Result :=
  .next (match s.ups.minutes with
    | [] => s
    | _ :: rest =>
      let s := { s with ups := { s.ups with minutes := rest } }
      if s.holding then
        let s := { s with ups := { s.ups with holdMinutes := s.ups.holdMinutes + 1 } }
        if s.ups.holdLimit ≤ s.ups.holdMinutes && !s.committing then s.endHold .expired else s
      else s)

/-! ## The end of a flash operation or of a piece of a bulk read -/

/-- A flash operation of the order the stager works ends. DESIGN CHOICE, log entry 18: BEGIN_STAGING erases manifest
sector 0, then sector 1, then programs the pages from page 0 on; R157 step 4 says only that both are erased and the
manifest programmed. It decides what a failed operation leaves in the flash for a later RESUME_STAGING (R160). -/
def State.workFlashDone (s : State) (ok : Bool) (data : List Byte) : State :=
  match s.ups.work with
  | .beginErase id sector b =>
    if !ok then s.beginFails id
    else if sector = 0 then
      (s.setWork (.beginErase id 1 b)).flashRequest (flashErase .staging (slotBase s.stagingSlot + 4096) .work)
    else s.programManifest id b 0
  | .beginProgram id page b =>
    if !ok then s.beginFails id
    else if page + 1 < ceilDiv b.length 256 then s.programManifest id b (page + 1)
    else s.beginDone id b
  | .resume id got => s.resumeIn id (got ++ data)
  | .rescan id k => s.rescanIn id k data
  | .slotErase id r c =>
    if ok then (s.setWork (.slotProgram id r c)).programSlotRecord r .work else s.slotFails id c
  | .slotProgram id r c => if ok then s.slotWritten id r c else s.slotFails id c
  | .idle | .beginHead _ _ | .beginBody _ _ _ | .stageWait _ _ _ | .stage _ => s

/-- A piece of a bulk read of the order the stager works is in. -/
def State.workBulkDone (s : State) (o : Order) (data : List Byte) : State :=
  match s.ups.work with
  | .beginHead id got =>
    if s.bulkWaiting id then s.setWork (.beginHead id (got ++ data)) else s.manifestHeadIn o (got ++ data)
  | .beginBody id size got =>
    if s.bulkWaiting id then s.setWork (.beginBody id size (got ++ data)) else s.manifestIn id (got ++ data)
  | .stage id => s.stageIn id data
  | .idle | .beginErase _ _ _ | .beginProgram _ _ _ | .stageWait _ _ _ | .resume _ _ | .rescan _ _ | .slotErase _ _ _
  | .slotProgram _ _ _ => s

end Sys2Proof.Machine
end

