-- ==== Sys2Proof/Machine/Flash.lean ====
section
/-!
DEFINITION. The Flash Controller: the slot record check, READ_FLASH, and the end of a flash operation (chapter 10).
-/

namespace Sys2Proof.Machine

open Sys2Proof

/-! ## The slot record check (R153, R155) -/

def State.setBoot (s : State) (b : Boot) : State := { s with fls := { s.fls with boot := b } }

/-- The wait for a device that shows not busy has ended, by a status read or after 500 ms (R153). -/
def State.bootDue (s : State) : Bool :=
  match s.fls.boot with
  | .statusRead => true
  | .waitStatus t => t.toNat ≤ s.sck.us.toNat
  | _ => false

/-- SLOT_RECORD_CHECK (R153, R155): the check starts by reading the record. -/
def execSlotRecordCheck (s : State) : Result :=
  .next (if s.bootDue then
    (s.setBoot .readRecord).flashRequest (flashRead .slotRecord slotRecordAddr 16 .boot)
  else s)

/-- The check goes on to the active slot's manifest. -/
def State.bootManifest (s : State) (r : SlotRecord) (report : Option (ReportKind × Bool)) (got : List Byte) : State :=
  (s.setBoot (.readManifest r report got)).flashRequest (manifestRead .slotRecord r.active got .boot)

/-- The record read (R155). -/
def State.recordIn (s : State) (data : List Byte) : State :=
  match slotRecordOf data with
  | none => s.bootManifest SlotRecord.default (some (.recordInvalid, false)) []
  | some r =>
    if r.trial then
      let w := if r.remaining = 0 then
          ({ r with active := r.fallback, fallback := r.active, trial := false, remaining := 0 }, ReportKind.reverted)
        else ({ r with remaining := r.remaining - 1 }, ReportKind.trialStart)
      (s.setBoot (.eraseRecord w.1 w.2)).eraseSlotRecord .boot
    else s.bootManifest r none []

/-- The body of the reports of the check: active slot, state, remaining, written flag (R155). -/
def recordBody (r : SlotRecord) (written : Bool) : List Byte :=
  [byteOf r.active.code, flagByte r.trial, byteOf r.remaining, flagByte written]

/-- The check ends (R155). -/
def State.checkEnds (s : State) (r : SlotRecord) (report : Option (ReportKind × Bool)) (got : List Byte) : State :=
  let s := { s with fls := { s.fls with boot := .done, slot := r, activeManifest := manifestOf got } }
  match report with
  | some (k, written) => s.giveReport k 0 (recordBody r written)
  | none => s

/-- A flash operation of the check ends. -/
def State.bootFlashDone (s : State) (ok : Bool) (data : List Byte) : State :=
  match s.fls.boot with
  | .readRecord => s.recordIn data
  | .eraseRecord r k =>
    if ok then (s.setBoot (.programRecord r k)).programSlotRecord r .boot else s.bootManifest r (some (k, false)) []
  | .programRecord r k => s.bootManifest r (some (k, ok)) []
  | .readManifest r report got =>
    if manifestGoesOn (got ++ data) then s.bootManifest r report (got ++ data) else s.checkEnds r report (got ++ data)
  | .off | .waitStatus _ | .statusRead | .done => s

/-! ## READ_FLASH (R166) -/

/-- The present piece of a READ_FLASH is read (R166). -/
def State.readPiece (s : State) (w : ReadWork) : State :=
  State.flashRequest { s with fls := { s.fls with readWork := some w } } (flashRead .readFlash w.addr w.piece .readFlash)

/-- READ_FLASH (kind 0x90, R166): flash offset, length, destination. It waits for the end of the slot record check
(R153). -/
def execReadFlash (s : State) : Result :=
  .next (if s.fls.boot = .done then
    match s.freshHead .fls 0x90 with
    | some o =>
      let offset := o.u32 0
      let len := o.u32 4
      let dest := o.u32 8
      if len = 0 ∨ 65536 < len ∨ 16777216 < offset + len then s.refuse o .badParam
      else if !usable o.area dest len then s.refuse o .areaError
      else (s.mark o.id .working).readPiece ⟨o.id, len, offset, min 4096 len, len - min 4096 len, dest⟩
    | none => s
  else s)

/-- A piece of a READ_FLASH has been read: it is written to its destination. -/
def State.readFlashIn (s : State) (data : List Byte) : State :=
  match s.fls.readWork with
  | some w =>
    match s.orderOf w.order with
    | some o => s.bulkWrite o w.dest data
    | none => s
  | none => s

/-- A bus write of a READ_FLASH has completed: the next piece is read, or the order is answered (R166). DESIGN CHOICE, log
entry 31: the next piece is read only when every bus write of the piece before it has completed. -/
def State.readFlashWritten (s : State) (o : Order) : State :=
  match s.fls.readWork with
  | none => s
  | some w =>
    if s.bulkWaiting o.id then s
    else if w.left = 0 then State.accept { s with fls := { s.fls with readWork := none } } o (le 4 w.total)
    else s.readPiece { w with
      addr := w.addr + w.piece, piece := min 4096 w.left, left := w.left - min 4096 w.left, dest := w.dest + w.piece }

/-! ## The end of an operation (R153) -/

/-- The requester of a flash operation goes on. -/
def State.flashDone (s : State) (w : FlashOwner) (ok : Bool) (data : List Byte) : State :=
  match w with
  | .nobody => s
  | .boot => s.bootFlashDone ok data
  | .readFlash => s.readFlashIn data
  | .serve => s.serveIn data
  | .work => s.workFlashDone ok data
  | .buf b => s.bufFlashDone b ok data
  | .cancel id => s.mark id (if ok then .cancelErased else .cancelFailed)

/-- The operation under way has ended; the controller starts the next. -/
def State.opEnds (s : State) : State := State.startFlash { s with fls := { s.fls with op := none } }

/-- FLASH_OPERATION_COMPLETE (R153): the operation under way ends; or with none under way, a status read shows the
device not busy. -/
def execFlashOperationComplete (data : List Byte) (s : State) : Result :=
  .next (match s.fls.op with
    | some (o, _) => (s.flashDone o.owner true (if o.kind = .read then pad o.len data else [])).opEnds
    | none =>
      if s.fls.stalled then State.startFlash { s with fls := { s.fls with stalled := false } }
      else match s.fls.boot with
        | .waitStatus _ => s.setBoot .statusRead
        | _ => s)

/-- The limit of an operation in microseconds (R153). -/
def FlashKind.limit : FlashKind → Option Nat
  | .read => none
  | .program => some Config.programLimitUs
  | .erase => some Config.longLimitUs

/-- The operation under way has reached its limit. -/
def State.flashLate (s : State) : Bool :=
  match s.fls.op with
  | some (o, t) =>
    match o.kind.limit with
    | some n => n ≤ (s.sck.us - t).toNat
    | none => false
  | none => false

/-- FLASH_TIMEOUT (R153): the requester's work fails and no operation starts until a status read shows not busy. -/
def execFlashTimeout (s : State) : Result :=
  .next (match s.fls.op with
    | some (o, _) =>
      if s.flashLate then
        (State.flashDone { s with fls := { s.fls with stalled := true } } o.owner false []).opEnds
      else s
    | none => s)

end Sys2Proof.Machine
end

