-- ==== Sys2Proof/Machine/Bus.lean ====
section
/-!
DEFINITION. The completions on the bus-master port: what each requester does when its access ends, the completion of a
take, and failed accesses (R6, R10, R14, R16, R20, R23, R24).
-/

namespace Sys2Proof.Machine

open Sys2Proof

/-! ## Looks and takes (R10 to R13) -/

/-- The chain pointer of a look is in (R10 steps 2 and 3). -/
def State.lookPointerIn (s : State) (data : List Byte) : State :=
  let p := leAt data 0 4
  if s.exu.look = .pointer then
    if p = 0 then s.endLook
    else if p % 64 ≠ 0 ∨ s.exu.area.size < p + 16 then s.areaFault .chainPointerInvalid
    else State.request { s with exu := { s.exu with look := .head p } } (readAccesses .order s.exu.area p 16 .lookHead)
  else s

/-- The head of the next block is in (R10 steps 4 and 5). -/
def State.lookHeadIn (s : State) (data : List Byte) : State :=
  match s.exu.look with
  | .head p =>
    let len := leAt data 6 2
    if byteAt data 4 ≠ 1 then s.endLook
    else if len < 64 ∨ 4096 < len ∨ len % 64 ≠ 0 ∨ s.exu.area.size < p + len then s.areaFault .blockInvalid
    else State.request { s with exu := { s.exu with look := .rest p len data } }
      (readAccesses .order s.exu.area (p + 16) (len - 16) .lookRest)
  | _ => s

/-- A piece of the rest of the block is in; with the whole block in, TAKEN is written (R10 step 6). -/
def State.lookRestIn (s : State) (data : List Byte) : State :=
  match s.exu.look with
  | .rest p len got =>
    let b := got ++ data
    if len ≤ b.length then
      State.request { s with exu := { s.exu with look := .taking p b } }
        (writeAccesses .order s.exu.area (p + 4) [2] .taken)
    else { s with exu := { s.exu with look := .rest p len b } }
  | _ => s

/-- The entry a take makes (R12, R13, R19). -/
def State.takenOrder (s : State) (p : Nat) (b : List Byte) : Order where
  id := s.exu.nextOrder
  offset := p
  kind := byteAt b 5
  params := b.drop 48
  owner := ownerOf (byteAt b 5)
  area := s.exu.area
  predecessor := s.exu.lastTaken
  orphaned := false
  progress := .fresh
  ended := false

/-- The RELEASED write for the block a take of the block at `p` moves the cursor off, when the part has written it
ANSWERED (R11). A block POSTED again that names itself is taken with the cursor resting on it: nothing is released. -/
def State.releaseLeft (s : State) (p : Nat) : List Access :=
  match s.exu.cursor with
  | .block c true => if c = p then [] else [⟨.answer, true, s.exu.area.addr (c + 4), 1, [4], .nobody⟩]
  | .block _ false | .anchor | .nowhere => []

/-- A take is complete (R10 step 7): the order joins the lists, the cursor moves, and a look is caused. A CANCEL_STAGING
acts as it joins (R161). -/
def State.takeDone (s : State) (p : Nat) (b : List Byte) : State :=
  let o := s.takenOrder p b
  let released := s.releaseLeft p
  let s := { s with exu := { s.exu with
    inFlight := s.exu.inFlight ++ [o]
    nextOrder := s.exu.nextOrder + 1
    lastTaken := if o.kind = 0 then s.exu.lastTaken else some o.id
    cursor := .block p false
    look := .due
    lookPending := false } }
  let s := s.request released
  if o.kind = 0x83 then s.cancelJoins o.id else s

/-- The TAKEN write has completed. -/
def State.takenWritten (s : State) : State :=
  match s.exu.look with
  | .taking p b => s.takeDone p b
  | _ => s

/-! ## Placements (R20) -/

/-- The chain pointer of a placement is in (R20 steps 2 and 3). -/
def State.placePointerIn (s : State) (data : List Byte) : State :=
  let p := leAt data 0 4
  if s.exu.place = .pointer then
    if p = 0 then s.placeFails
    else if p % 64 ≠ 0 ∨ s.exu.area.size < p + 64 then s.areaFault .chainPointerInvalid
    else State.request { s with exu := { s.exu with place := .state p } }
      (readAccesses .report s.exu.area (p + 4) 1 .placeState)
  else s

/-- The state of the next report block is in (R20 steps 4 and 5). -/
def State.placeStateIn (s : State) (data : List Byte) : State :=
  match s.exu.place, s.exu.hold with
  | .state p, r :: _ =>
    if byteAt data 0 ≠ 0 then s.placeFails
    else State.request { s with exu := { s.exu with place := .body p } }
      (writeAccesses .report s.exu.area (p + 5) r.bytes .placeBody
        ++ writeAccesses .report s.exu.area (p + 4) [1] .placeFilled)
  | _, _ => s

/-- The body of the report has been written. -/
def State.placeBodyWritten (s : State) : State :=
  match s.exu.place with
  | .body p => { s with exu := { s.exu with place := .filled p } }
  | _ => s

/-- The FILLED write has completed (R20 step 6): the report is placed and the next placement follows (R21). -/
def State.placed (s : State) : State :=
  match s.exu.place with
  | .filled p =>
    let rest := s.exu.hold.tail
    let s := State.setEvent
      { s with exu := { s.exu with
          reportPos := .block p, hold := rest, blocked := false, place := if rest = [] then .idle else .due } } .reported
    if rest = [] then s.drainEnd else s
  | _ => s

/-! ## Bulk transfers (R16) -/

/-- A piece of an order's bulk transfer has completed: its owning block goes on. -/
def State.bulkDone (s : State) (id : Nat) (data : List Byte) : State :=
  match s.orderOf id with
  | none => s
  | some o =>
    match o.owner with
    | .exu => match s.exu.tableWork with
      | some w => if s.bulkWaiting id then s else s.tableGoesOn o w
      | none => s
    | .ups => s.workBulkDone o data
    | .fls => s.readFlashWritten o
    | .frp | .flc | .stt | .sck | .pfe | .mlc | .hoc => s

/-- A bulk transfer fails: the transfer ends and its order is ended AREA_ERROR (R16, R159). -/
def State.bulkFails (s : State) (id : Nat) : State :=
  let s := s.dropBulk id
  match s.orderOf id with
  | none => s
  | some o =>
    match o.owner with
    | .exu => State.refuse { s with exu := { s.exu with tableWork := none } } o .areaError
    | .ups =>
      let s := match s.bufOf id with
        | some b => s.freeBuf b
        | none => s
      s.endWork id .areaError 0 []
    | .fls => State.refuse { s with fls := { s.fls with readWork := none } } o .areaError
    | .frp | .flc | .stt | .sck | .pfe | .mlc | .hoc => s

/-! ## Accesses -/

/-- The requester of a completed access goes on (R23). -/
def State.accessDone (s : State) (w : BusOwner) (data : List Byte) : State :=
  match w with
  | .nobody | .answerArea => s
  | .header => s.headerRead true data
  | .lookPointer => s.lookPointerIn data
  | .lookHead => s.lookHeadIn data
  | .lookRest => s.lookRestIn data
  | .taken => s.takenWritten
  | .answerState _ => s.setEvent .answered
  | .placePointer => s.placePointerIn data
  | .placeState => s.placeStateIn data
  | .placeBody => s.placeBodyWritten
  | .placeFilled => s.placed
  | .bulk id => s.bulkDone id data

/-- The fault of a failed access (R24). -/
def Access.fault (a : Access) : FaultCause := if a.write then .writeError else .readError

/-- An access fails (R6, R16, R24): a failed header read makes the header invalid, any other failure is an area fault, and
a bulk transfer's order ends. -/
def State.accessFails (s : State) (a : Access) : State :=
  match a.owner with
  | .header => s.headerRead false []
  | .bulk id => (s.areaFault a.fault).bulkFails id
  | _ => s.areaFault a.fault

/-- The bus-master port is free again and the arbiter starts the next access (R23). -/
def State.busFree (s : State) : State := State.arbitrate { s with exu := { s.exu with bus := none } }

/-- BUS_ACCESS_COMPLETE (R23): the access on the bus completes with the bytes of a read, or fails. -/
def execBusAccessComplete (ok : Bool) (data : List Byte) (s : State) : Result :=
  .next (match s.exu.bus with
    | some (a, _) =>
      (if ok then s.accessDone a.owner (if a.write then [] else pad a.len data) else s.accessFails a).busFree
    | none => s)

/-- TAKE_COMPLETE (R10 step 7): the TAKEN write on the bus completes. -/
def execTakeComplete (s : State) : Result :=
  .next (match s.exu.bus with
    | some (a, _) => if a.owner = .taken then s.takenWritten.busFree else s
    | none => s)

/-- The access on the bus has not completed within 2 ms (R23). -/
def State.busLate (s : State) : Bool :=
  match s.exu.bus with
  | some (_, t) => Config.busLimitUs ≤ (s.sck.us - t).toNat
  | none => false

/-- BUS_ACCESS_TIMEOUT (R24). -/
def execBusAccessTimeout (s : State) : Result :=
  .next (match s.exu.bus with
    | some (a, _) => if s.busLate then (s.accessFails a).busFree else s
    | none => s)

end Sys2Proof.Machine
end

