-- ==== Sys2Proof/Machine/Classifier.lean ====
section
/-!
DEFINITION. The orders of the Flow Classifier and its check of a whole second (R51, R60 to R65).
-/

namespace Sys2Proof.Machine

open Sys2Proof

def ruleStageOf : Nat → Option RuleStage
  | 0 => some .one | 1 => some .two | _ => none

def familyOf : Nat → Option Family
  | 0 => some .any | 1 => some .ipv4 | 2 => some .ipv6 | _ => none

def responseOf : Nat → Option Response
  | 0 => some .terminal | 1 => some .pass | 2 => some .drop | _ => none

/-- The station selector of 7 bytes: code, then a MAC or a profile number (R167). None for an undefined code or a
profile number above 15. DESIGN CHOICE, log entry 26: the bytes a kind does not use, the last five for PROFILE and all six
for ANY, are 0 by R167 and are not tested here, for R60 refuses none of them. -/
def selectorOf (l : List Byte) (i : Nat) : Option Selector :=
  match (byteAt l i).toNat with
  | 0 => some .any
  | 1 => some (.mac (macAt l (i + 1)))
  | 2 => (finOf 16 (byteAt l (i + 1)).toNat).map .profile
  | _ => none

/-- The class field of a rule: any class but CTRL (R60). -/
def ruleClassOf (n : Nat) : Option TClass :=
  match classOfCode n with
  | some .ctrl => none
  | c => c

/-- The greatest prefix length of a family (R60 step 2). -/
def prefixLimit : Family → Nat
  | .any => 0 | .ipv4 => 32 | .ipv6 => 128

/-- The rule that a SET_RULE's parameters write, or none when a test of R60 step 1 fails: index, then the fields of
Table 3-1 in order. DESIGN CHOICE, log entry 29: the address value stands most significant byte first. DESIGN CHOICE,
log entry 26: bits 7 to 3 of the flags byte, which Table 11-1 does not name, and the selector bytes that the selector's
kind does not use (selectorOf) are ignored, and the order is accepted. -/
def ruleOf (o : Order) : Option (Fin 64 × Rule) :=
  match finOf 64 (o.u8 0), ruleStageOf (o.u8 2), familyOf (o.u8 6), selectorOf o.params 35, responseOf (o.u8 42),
      ruleClassOf (o.u8 43) with
  | some i, some stage, some family, some selector, some response, some cls =>
    if 7 < o.u8 3 then none
    else some (i, {
      enabled := o.flag 1
      stage := stage
      armGroup := byteOf (o.u8 3)
      protoValue := byteAt o.params 4
      protoMask := byteAt o.params 5
      family := family
      addr := BitVec.ofNat 128 (beAt o.params 7 16)
      prefixLen := clamp 0 (prefixLimit family) (o.u8 23)
      portLow := BitVec.ofNat 16 (o.u16 24)
      portHigh := BitVec.ofNat 16 (o.u16 26)
      invert := o.flag 28
      dscpValue := BitVec.ofNat 6 (o.u8 29)
      dscpMask := BitVec.ofNat 6 (o.u8 30)
      lengthLow := clamp 60 2048 (o.u16 31)
      lengthHigh := clamp 60 2048 (o.u16 33)
      selector := selector
      response := response
      cls := cls
      listed := (byteAt o.params 44).getLsbD 0
      report := (byteAt o.params 44).getLsbD 1
      arm := (byteAt o.params 44).getLsbD 2
      armTime := clamp 1 600 (o.u16 45)
      hits := 0 })
  | _, _, _, _, _, _ => none

/-- The rule of an index takes new fields and the flows it classed are removed (R60 step 3). -/
def State.writeRule (s : State) (i : Fin 64) (r : Rule) : State :=
  State.dropFlows { s with flc := { s.flc with rules := put s.flc.rules i r } } fun f => f.origin == .rule i

/-- How many flows a rule classed. -/
def State.ruleFlows (s : State) (i : Fin 64) : Nat := s.countFlows fun f => f.origin == .rule i

/-- SET_RULE (kind 0x20, R60). -/
def execSetRule (s : State) : Result :=
  workOrder .flc 0x20 (fun o s =>
    match ruleOf o with
    | none => s.refuse o .badParam
    | some (i, r) => (s.writeRule i r).accept o ([byteOf i.val] ++ le 2 (s.ruleFlows i))) s

/-- CLEAR_RULE (kind 0x21, R61). -/
def execClearRule (s : State) : Result :=
  workOrder .flc 0x21 (fun o s =>
    match finOf 64 (o.u8 0) with
    | none => s.refuse o .badParam
    | some i => (s.writeRule i Rule.clear).accept o ([byteOf i.val] ++ le 2 (s.ruleFlows i))) s

/-- The five limits a SET_FLOW_TIMES writes (R62). -/
def limitsOf (o : Order) : Vector Nat 5 := Vector.ofFn fun k : Fin 5 => clamp 1 3600 (o.u16 (2 * k.val))

/-- SET_FLOW_TIMES (kind 0x22, R62). -/
def execSetFlowTimes (s : State) : Result :=
  workOrder .flc 0x22 (fun o s =>
    State.accept { s with flc := { s.flc with limits := limitsOf o } } o
      ((limitsOf o).toList.map (le 2)).flatten) s

/-- The time since the node's last-GAME time, or all ones for the never mark (R65). -/
def State.sinceGame (s : State) : Nat :=
  match s.flc.lastGame with
  | none => 0xFFFFFFFF
  | some t => age s.now t

/-- SET_QUIET (kind 0x23, R65). -/
def execSetQuiet (s : State) : Result :=
  workOrder .flc 0x23 (fun o s =>
    let q := clamp 1 60 (o.u8 0)
    let s := { s with flc := { s.flc with quiet := q } }
    s.accept o ([byteOf q, flagByte s.gameQuiet] ++ le 4 s.sinceGame)) s

/-- A flow has been idle for its class's limit (R51). -/
def State.idleFlow (s : State) (f : Flow) : Bool :=
  pastBy s.now f.lastSeen (s.flc.limits.get (limitIx f.cls) * 1000)

/-- A last-GAME time at least `n` milliseconds in the past becomes the never mark (R64). -/
def forget (now : Ms) (n : Nat) (t : Option Ms) : Option Ms := t.filter fun x => !pastBy now x n

/-- FLOW_AGING (R51, R64): the check of a whole second. -/
def execFlowAging (s : State) : Result :=
  .next (if s.flc.agingDue then
    let s := s.dropFlows s.idleFlow
    { s with
      flc := { s.flc with agingDue := false, lastGame := forget s.now 3600000 s.flc.lastGame }
      stt := { s.stt with recs := s.stt.recs.map fun r => { r with lastGame := forget s.now 60000 r.lastGame } } }
  else s)

end Sys2Proof.Machine
end

