-- ==== Sys2Proof/Machine/FramePath.lean ====
section
/-!
DEFINITION. The commands of the Frame Path: the port orders, the seven stages of ingress, and the aging of the address
table (chapter 2).
-/

namespace Sys2Proof.Machine

open Sys2Proof

/-! ## Port orders (R29, R30, R44, R79) -/

/-- The configuration a SET_PORT gives (R29), every field clamped to its range for the port; the overhead of a wired port
is held as written (Table 2-1). -/
def configOf (p : PortId) (o : Order) : PortConfig where
  rate := clamp 1 (if portWired p then 10000 else 4800) (o.u16 2)
  overhead := if portWired p then o.u16 4 else clamp 0 1000 (o.u16 4)
  share := clamp 0 1000 (o.u16 6)
  depth := clamp 0 65535 (o.u16 8)
  quanta := Vector.ofFn fun k : Fin 4 => clamp 1 16383 (o.u16 (10 + 2 * k.val))
  limits := Vector.ofFn fun k : Fin 6 => clamp 1 1024 (o.u16 (18 + 2 * k.val))

/-- The scheduler state a SET_PORT sets (R79); a disabled port offers no opportunity (R30). -/
def Port.configure (x : Port) (c : PortConfig) (enabled : Bool) (us : Us) : Port :=
  { x with
    enabled := enabled
    config := c
    bucket := (c.depth : Int)
    remainder := 0
    lastAdvance := us
    deficits := .replicate 4 0
    pointer := 0
    quantumAdded := false
    opportunity := x.opportunity && enabled }

/-- How many copies a port's class queues hold. -/
def Port.queued (x : Port) : Nat := (x.queues.toList.map List.length).sum

/-- SET_PORT (kind 0x10, R29, R30, R79): port, enable, rate, overhead, share, depth, quanta, queue limits. -/
def execSetPort (s : State) : Result :=
  workOrder .frp 0x10 (fun o s =>
    match portOfCode (o.u8 0) with
    | none => s.refuse o .badParam
    | some p =>
      let enable := o.flag 1
      let c := configOf p o
      let disables := (s.port p).enabled && !enable
      let purged := if disables then (s.port p).queued else 0
      let s := if disables then
          (s.purgePort p fun _ => true).dropAddresses fun e => e.port == p
        else s
      let s := s.setPort p ((s.port p).configure c enable s.sck.us)
      s.accept o ([byteOf (portIx p).val, flagByte enable] ++ le 2 purged)) s

/-- The counters of one set as result fields (R44). -/
def ClassStats.set (c : ClassStats) (drops : Bool) : List Byte :=
  if drops then
    le 4 c.length ++ le 4 c.unknownSource ++ le 4 c.gate ++ le 4 c.queue ++ le 4 c.pool ++ le 4 c.notHere ++ le 4 c.hold
  else le 4 c.framesSent ++ le 4 c.bytesSent

/-- The counters of one set cleared (R44). -/
def ClassStats.cleared (c : ClassStats) (drops : Bool) : ClassStats :=
  if drops then { ClassStats.zero with framesSent := c.framesSent, bytesSent := c.bytesSent }
  else { c with framesSent := 0, bytesSent := 0 }

/-- PORT_STATS (kind 0x11, R44): port, class, set, clear flag. -/
def execPortStats (s : State) : Result :=
  workOrder .frp 0x11 (fun o s =>
    match portOfCode (o.u8 0), classOfCode (o.u8 1) with
    | some p, some c =>
      if 1 < o.u8 2 then s.refuse o .badParam
      else
        let drops := o.u8 2 == 1
        let x := s.port p
        let st := x.stats.get (classIx c)
        let s := if o.flag 3 then s.setPort p { x with stats := put x.stats (classIx c) (st.cleared drops) } else s
        s.accept o (st.set drops)
    | _, _ => s.refuse o .badParam) s

/-! ## The stages of ingress (R31 to R38) -/

def State.setIngress (s : State) (p : PortId) (x : Option Ingress) : State :=
  s.setPort p { s.port p with ingress := x }

/-- The meaning of a stage: work the frame under ingress at a port when it waits for that stage; with no such frame there
is nothing to work (log entry 2). -/
def workStage (p : PortId) (g : Stage) (f : Ingress → State → State) (s : State) : Result :=
  .next (match (s.port p).ingress with
    | some x => if x.stage = g then f x s else s
    | none => s)

/-- Stage 1 for a frame that the port takes (R32). -/
def State.acceptFrame (s : State) (p : PortId) (frame : List Byte) (sample : Int) : State :=
  if !(s.port p).enabled then s
  else if frame.length < 60 ∨ 2048 < frame.length then s.count p .normal .length
  else if frameType frame = s.mlc.etherType then
    if p = .mesh then { s with mlc := { s.mlc with frames := s.mlc.frames ++ [frame] } } else s
  else s.setIngress p (some ⟨.ends, frame, sample, none, none, none, .normal, false, false, []⟩)

/-- ACCEPTANCE (R32). A port whose receive side holds a frame leaves the next one with its device (R31). -/
def execAcceptance (p : PortId) (frame : List Byte) (sample : Int) (s : State) : Result :=
  .next (match (s.port p).ingress with
    | some _ => s
    | none => s.acceptFrame p frame sample)

/-- The record that makes a frame's source station on a radio (R33 item 1). -/
def State.sourceOn (s : State) (r : Radio) (m : Mac) : Option StaIx :=
  firstIx s.stt.recs fun x => x.state.serving && x.mac == m && x.radio == r

/-- The destination station with its state, and the address entry's port (R33 items 3 and 4). -/
def State.destinationOf (s : State) (m : Mac) : Option (StaIx × StaState) × Option PortId :=
  if groupMac m then (none, none)
  else match s.findMac m with
    | some i => (some (i, (s.sta i).state), none)
    | none => (none, match s.findAddr m with
      | some k => match s.frp.addresses.get k with
        | some e => some e.port
        | none => none
      | none => none)

/-- END_RESOLUTION (R33, R41, R90). -/
def execEndResolution (p : PortId) (s : State) : Result :=
  workStage p .ends (fun x s =>
    let m := frameSource x.frame
    match portRadio p with
    | some r =>
      match s.sourceOn r m with
      | none => (s.count p .normal .unknownSource).setIngress p none
      | some i =>
        let rec_ := s.sta i
        let s := s.setSta i { rec_ with signal := some (signalStep rec_.signal x.sample) }
        let d := s.destinationOf (frameDest x.frame)
        s.setIngress p (some { x with stage := .flow, source := some i, dest := d.1, entry := d.2 })
    | none =>
      let s := if groupMac m then s else s.learn m p
      let d := s.destinationOf (frameDest x.frame)
      s.setIngress p (some { x with stage := .flow, dest := d.1, entry := d.2 })) s

/-- A frame's station for classification with the MAC stage 2 found there (R48). -/
def Ingress.classStation (x : Ingress) : Option (StaIx × Mac) :=
  match x.source with
  | some i => some (i, frameSource x.frame)
  | none => match x.dest with
    | some (i, st) => if st.flowHolder then some (i, frameDest x.frame) else none
    | none => none

/-- The frame leaves stage 3 with a class and LISTED flag. -/
def State.classed (s : State) (p : PortId) (x : Ingress) (c : TClass) (listed : Bool) : State :=
  s.setIngress p (some { x with stage := .gate, cls := c, listed := listed })

/-- The record a frame inserts (R50). -/
def frameFlow (k : FlowKey) (station : Option StaIx) (c : TClass) (o : Origin) (listed : Bool) (now : Ms) (len : Nat) :
    Flow := ⟨k, station, c, o, listed, now, now, len⟩

/-- The match list is run for a frame; `insert` tells whether a record is inserted (R49 cases 1 and 3, R50). -/
def State.runMatchList (s : State) (p : PortId) (x : Ingress) (ip : IpInfo) (insert : Bool) : State :=
  let st := x.classStation
  let held := match st with
    | some (i, m) => s.stillHeld i m fun g => g != .free
    | none => false
  let mac := match st with
    | some (_, m) => m
    | none => 0
  let r := s.search ⟨ip, x.frame.length, p, st.map Prod.fst, mac, held⟩
  match r.2 with
  | .dropped => r.1.setIngress p none
  | .classed c listed origin =>
    let may := match st with
      | some (i, m) => r.1.stillHeld i m StaState.flowHolder
      | none => true
    let s := if insert && may then
        r.1.placeFlow (frameFlow ip.key (st.map Prod.fst) c origin listed r.1.now x.frame.length)
      else r.1
    s.classed p x c listed

/-- FLOW_LOOKUP (R34, R49, R50). -/
def execFlowLookup (p : PortId) (s : State) : Result :=
  workStage p .flow (fun x s =>
    match ipInfo x.frame with
    | none => s.classed p x .normal false
    | some ip =>
      match x.dest with
      | some (_, .left) => s.runMatchList p x ip false
      | _ =>
        match s.findFlow ip.key with
        | some f =>
          let s := s.placeFlow { f with lastSeen := s.now, bytes := satAdd f.bytes x.frame.length }
          s.classed p x f.cls f.listed
        | none => s.runMatchList p x ip true) s

/-- The flood of a frame (R37): the enabled ports of a list but the ingress port, in port order. -/
def State.floodTo (s : State) (p : PortId) (l : List PortId) : List Pending :=
  (l.filter fun q => q != p && (s.port q).enabled).map fun q => ⟨q, none, none, (portRadio q).isSome⟩

/-- Where a frame with no destination station goes (R36 cases 1, 3 and 4). -/
def State.byAddress (s : State) (p : PortId) (group : Bool) (entry : Option PortId) : List Pending :=
  if group then s.floodTo p PortId.all
  else match entry with
    | some q => if q = p then [] else [⟨q, none, none, false⟩]
    | none => s.floodTo p [.localPort, .wan, .mesh]

/-- The address entry stage 6 uses: the one of stage 2, or for a destination record freed since, the table's (R95). -/
def State.entryNow (s : State) (x : Ingress) : Option PortId :=
  match x.dest with
  | some _ => (s.destinationOf (frameDest x.frame)).2
  | none => x.entry

/-- The destination record that still holds the frame's MAC (R95). -/
def State.liveDest (s : State) (x : Ingress) : Option StaIx :=
  (x.dest.map Prod.fst).filter fun i => s.stillHeld i (frameDest x.frame) fun g => g != .free

/-- The copies stage 6 gives a frame that has no destination station. -/
def State.copiesOf (s : State) (p : PortId) (x : Ingress) : List Pending :=
  s.byAddress p (groupMac (frameDest x.frame)) (s.entryNow x)

/-- Every gate that applies passes the frame (R35, R95). -/
def State.gatesPass (s : State) (x : Ingress) : Bool :=
  let src := match s.liveSource x with
    | some i => (s.sta i).gate.passes x.cls x.listed
    | none => true
  let dst := match s.liveDest x with
    | some i => !(s.sta i).state.serving || (s.sta i).gate.passes x.cls x.listed
    | none => true
  src && dst

/-- GATE_CHECK (R35, R95): the source station that fails its test is absent from here on. -/
def execGateCheck (p : PortId) (s : State) : Result :=
  workStage p .gate (fun x s =>
    let y := { x with source := s.liveSource x }
    if p = .localPort ∨ x.cls = .ctrl ∨ s.gatesPass x then s.setIngress p (some { y with stage := .activity })
    else
      let local_ := (s.liveDest x).isNone && (s.copiesOf p x).any fun c => c.port == .localPort
      let s := s.count p x.cls .gate
      if local_ then s.setIngress p (some { y with stage := .activity, localOnly := true }) else s.setIngress p none) s

/-- ACTIVITY_BYTE_COUNTING (R36, R95, R103). -/
def execActivityByteCounting (p : PortId) (s : State) : Result :=
  workStage p .activity (fun x s =>
    let source := s.liveSource x
    let s := match source with
      | some i =>
        if x.localOnly || x.listed || x.cls == TClass.ctrl || x.entry == some PortId.localPort then s
        else s.addBytes i x.frame.length
      | none => s
    s.setIngress p (some { x with stage := .destination, source := source })) s

/-- What stage 7 is offered for a copy of a frame under ingress. -/
def Ingress.offered (x : Ingress) (p : PortId) (c : Pending) : Offered :=
  ⟨x.frame, x.cls, c.station, c.hop, c.broadcast, x.source, some p, x.listed⟩

/-- The copies of a frame go on to stage 7; with none its ingress ends. -/
def State.toEnqueue (s : State) (p : PortId) (x : Ingress) (l : List Pending) : State :=
  let l := if x.localOnly then l.filter fun c => c.port == .localPort else l
  s.setIngress p (if l = [] then none else some { x with stage := .enqueue, copies := l })

/-- DESTINATION_RESOLUTION (R36, R37, R38): a frame with a destination station is enqueued or held in this step. -/
def execDestinationResolution (p : PortId) (s : State) : Result :=
  workStage p .destination (fun x s =>
    match s.liveDest x with
    | none => s.toEnqueue p x (s.copiesOf p x)
    | some i =>
      let r := s.sta i
      let out := s.setIngress p none
      if x.localOnly then out
      else match r.state with
        | .active | .watched | .offering =>
          (out.enqueueNew (radioPort r.radio) (x.offered p ⟨radioPort r.radio, some i, none, false⟩)).1
        | .moving | .withdrawing => out.holdFrame i ⟨x.frame, x.cls, p, x.source, x.listed⟩
        | .left =>
          (out.enqueueNew .mesh (x.offered p ⟨.mesh, none, r.forward.map Forward.peer, false⟩)).1
        | .reserved => out.count p x.cls .notHere
        | .free => out) s

/-- ENQUEUE (R38): the next copy of the frame under ingress. -/
def execEnqueue (p : PortId) (s : State) : Result :=
  workStage p .enqueue (fun x s =>
    match x.copies with
    | [] => s.setIngress p none
    | c :: rest =>
      let s := s.setIngress p (if rest = [] then none else some { x with copies := rest })
      (s.enqueueNew c.port (x.offered p c)).1) s

/-! ## Aging (R42) -/

/-- ADDRESS_AGING (R42): the check of a whole second. -/
def execAddressAging (s : State) : Result :=
  .next (if s.frp.agingDue then
    State.dropAddresses { s with frp := { s.frp with agingDue := false } } fun e => pastBy s.now e.lastSeen 300000
  else s)

end Sys2Proof.Machine
end

