-- ==== Sys2Proof/Machine/Stations.lean ====
section
/-!
DEFINITION. The orders of the Station Table and the events and notices it takes (chapters 5 and 6).
-/

namespace Sys2Proof.Machine

open Sys2Proof

/-- The profile a byte names: 0..15, or 255 for NONE (R86, R88). -/
def profileField (n : Nat) : Option (Option ProfIx) :=
  if n = 255 then some none else (finOf 16 n).map some

/-- The radio port a byte names (R86). -/
def radioField : Nat → Option Radio
  | 2 => some .a | 3 => some .b | _ => none

/-- The index, gate and spent flag of a record as result fields. -/
def State.standing (s : State) (i : StaIx) : List Byte :=
  [byteOf i.val, byteOf (s.sta i).gate.code, flagByte (s.sta i).spent]

/-! ## Admission (R86, R87, R145) -/

/-- The record an admission creates (R87). -/
def State.newStation (s : State) (m : Mac) (radio : Radio) (profile : Option ProfIx) (rate used : Nat) : Station :=
  { Station.free with
    state := .active
    mac := m
    radio := radio
    profile := profile
    rate := rate
    nextQuery := s.now
    used := used
    day := s.stampNow }

/-- The creation of a record (R87). -/
def State.enrol (s : State) (i : StaIx) (r : Station) : State :=
  (((s.enter i r).recomputeSpent i).recomputeGate i).membership r.profile

/-- The fields a bind changes (R145). -/
def Station.bound (r : Station) (radio : Radio) (profile : Option ProfIx) (rate : Nat) (now : Ms) : Station :=
  { r with
    state := .active
    radio := radio
    rate := rate
    profile := profile.orElse fun _ => r.profile
    signal := none
    runOn := 0
    requery := 2
    nextQuery := now
    handoff := r.handoff.map fun h => { h with tries := 1, wait := some (after now 100), deadline := after now 2000 } }

/-- A bind (R145). -/
def State.bind (s : State) (i : StaIx) (radio : Radio) (profile : Option ProfIx) (rate : Nat) : State :=
  let r := (s.sta i).bound radio profile rate s.now
  let s := (((s.setSta i r).membership r.profile).recomputeSpent i).recomputeGate i
  match r.handoff with
  | some h => (s.sendTo h.peer kConfirm (idMacBody h.id r.mac)).giveReport .stationArrived i.val
      ([byteOf h.peer.val] ++ h.id.leBytes)
  | none => s

/-- The rows of R86's table, for parameters that passed the BAD_PARAM tests and were clamped. -/
def State.admission (s : State) (o : Order) (m : Mac) (radio : Radio) (profile : Option ProfIx) (rate used : Nat) :
    State :=
  match s.findMac m with
  | some i =>
    match (s.sta i).state with
    | .reserved =>
      let s := s.bind i radio profile rate
      s.accept o (s.standing i ++ [1])
    | .moving | .withdrawing => s.refuse o .again
    | .active | .watched | .offering | .left | .free =>
      s.finish o.id .duplicate (byteOf (s.sta i).state.code) [byteOf i.val]
  | none =>
    match s.freeIndex with
    | none => s.refuse o .noRoom
    | some i =>
      if (s.port (radioPort radio)).enabled then
        let s := s.enrol i (s.newStation m radio profile rate used)
        s.accept o (s.standing i)
      else s.refuse o .refusedState

/-- ADMIT_STATION (kind 0x30, R86): MAC, radio port, profile, rate, used minutes, given flag. -/
def execAdmitStation (s : State) : Result :=
  workOrder .stt 0x30 (fun o s =>
    let m := macAt o.params 0
    match radioField (o.u8 6), profileField (o.u8 7) with
    | some radio, some profile =>
      if usableMac m then
        s.admission o m radio profile (clamp 1 4800 (o.u16 8)) (if o.flag 12 then clamp 0 1440 (o.u16 10) else 0)
      else s.refuse o .badParam
    | _, _ => s.refuse o .badParam) s

/-! ## Departure and change (R88, R93) -/

/-- DEPART_STATION (kind 0x31, R93): MAC. -/
def execDepartStation (s : State) : Result :=
  workOrder .stt 0x31 (fun o s =>
    match s.findMac (macAt o.params 0) with
    | none => s.refuse o .notFound
    | some i =>
      match (s.sta i).state with
      | .active | .watched => (s.freeStation i).accept o []
      | .offering | .moving | .withdrawing => (s.setSta i { s.sta i with departed := true }).accept o []
      | .left => s.accept o []
      | .reserved => s.refuse o .refusedState
      | .free => s.refuse o .notFound) s

/-- The membership notices of a change of profile number (R84). -/
def State.profileChanged (s : State) (old new : Option ProfIx) : State :=
  if old = new then s else (s.membership old).membership new

/-- SET_STATION (kind 0x32, R88): index, profile, rate, used minutes, bonus. -/
def execSetStation (s : State) : Result :=
  workOrder .stt 0x32 (fun o s =>
    match finOf 128 (o.u8 0), profileField (o.u8 1) with
    | some i, some profile =>
      let r := s.sta i
      match r.state with
      | .free => s.refuse o .notFound
      | .offering | .moving | .withdrawing | .reserved | .left => s.refuse o .again
      | .active | .watched =>
        let s := s.setSta i { r with
          profile := profile
          rate := clamp 1 4800 (o.u16 2)
          used := clamp 0 1440 (o.u16 4)
          bonus := clamp 0 720 (o.u16 6) }
        let s := ((s.profileChanged r.profile profile).recomputeSpent i).recomputeGate i
        s.accept o (s.standing i)
    | _, _ => s.refuse o .badParam) s

/-! ## Bonus minutes (R108) -/

/-- A bonus of some minutes is added to a record; a change recomputes its spent flag. -/
def State.addBonus (minutes : Nat) (s : State) (i : StaIx) : State :=
  let r := s.sta i
  let b := min 720 (r.bonus + minutes)
  if b = r.bonus then s else (s.setSta i { r with bonus := b }).recomputeSpent i

/-- A record that a profile's grant reaches. -/
def Station.grantable (p : ProfIx) (r : Station) : Bool :=
  (r.state == .active || r.state == .watched) && r.profile == some p

/-- A record that a profile's grant skips. -/
def Station.skipped (p : ProfIx) (r : Station) : Bool :=
  (r.state == .offering || r.state == .moving || r.state == .withdrawing) && r.profile == some p

/-- GRANT_BONUS for a station (R108). -/
def State.grantStation (s : State) (o : Order) (i : StaIx) (minutes : Nat) : State :=
  let r := s.sta i
  match r.state with
  | .free => s.refuse o .notFound
  | .offering | .moving | .withdrawing | .reserved | .left => s.refuse o .again
  | .active | .watched =>
    match r.profile with
    | none => s.refuse o .refusedState
    | some p =>
      if !(s.profile p).inUse then s.refuse o .refusedState
      else if (s.profile p).lock = .fullLocked then s.refuse o .locked
      else
        let s := (State.addBonus minutes s i).triggerFor p .grant
        s.accept o ([1, 0] ++ le 2 (s.sta i).bonus ++ [flagByte (s.sta i).spent])

/-- GRANT_BONUS for a profile (R108). -/
def State.grantProfile (s : State) (o : Order) (p : ProfIx) (minutes : Nat) : State :=
  if !(s.profile p).inUse then s.refuse o .refusedState
  else if (s.profile p).lock = .fullLocked then s.refuse o .locked
  else
    let granted := (s.stt.recs.toList.filter (Station.grantable p)).length
    let skipped := (s.stt.recs.toList.filter (Station.skipped p)).length
    let s := (s.eachSta (Station.grantable p) (State.addBonus minutes)).triggerFor p .grant
    s.accept o [byteOf granted, byteOf skipped]

/-- GRANT_BONUS (kind 0x33, R108): selector, index, minutes. -/
def execGrantBonus (s : State) : Result :=
  workOrder .stt 0x33 (fun o s =>
    let minutes := clamp 1 720 (o.u16 2)
    match o.u8 0, finOf 128 (o.u8 1), finOf 16 (o.u8 1) with
    | 0, some i, _ => s.grantStation o i minutes
    | 1, _, some p => s.grantProfile o p minutes
    | _, _, _ => s.refuse o .badParam) s

/-! ## Rate notices (R89) -/

/-- RATE_NOTICE (R89). -/
def execRateNotice (radio : Radio) (m : Mac) (rate : Half) (s : State) : Result :=
  .next (match s.sourceOn radio m with
    | some i => s.setSta i { s.sta i with rate := clamp 1 4800 rate.toNat }
    | none => s)

/-! ## Minutes and days (R105, R106) -/

/-- A record counts an active minute at this minute event (R105 step 1). -/
def State.countsMinute (s : State) (r : Station) : Bool :=
  s.sck.set && r.state.serving && (match r.profile with
    | some p => (s.profile p).inUse && (s.profile p).threshold ≤ r.bytes
    | none => false)

/-- A record after a minute event (R105). -/
def State.minuteOf (s : State) (r : Station) : Station :=
  if r.state = .free then r
  else { r with used := if s.countsMinute r then min 1440 (r.used + 1) else r.used, bytes := 0 }

/-- The records whose used minutes a minute event changes. -/
def State.minuteChanges (s : State) : List StaIx :=
  (List.finRange 128).filter fun i => s.countsMinute (s.sta i) && (s.sta i).used < 1440

/-- ACTIVE_MINUTE_COUNT (R105). -/
def execActiveMinuteCount (s : State) : Result :=
  .next (match s.stt.minutes with
    | .minute _ :: rest =>
      s.minuteChanges.foldl State.recomputeSpent
        { s with stt := { s.stt with minutes := rest, recs := s.stt.recs.map s.minuteOf } }
    | _ => s)

/-- A record after a day rollover (R106). -/
def Station.newDay (day : Word) (keepBytes : Bool) (r : Station) : Station :=
  if r.state = .free then r
  else { r with used := 0, bonus := 0, day := some day, bytes := if keepBytes then r.bytes else 0 }

/-- The day rollover of every record (R106). -/
def State.rollOver (s : State) (rest : List MinuteKind) (day : Word) (keepBytes : Bool) : State :=
  State.recomputeAllSpent
    { s with stt := { s.stt with minutes := rest, recs := s.stt.recs.map (Station.newDay day keepBytes) } }

/-- DAY_ROLLOVER (R106). -/
def execDayRollover (s : State) : Result :=
  .next (match s.stt.minutes with
    | .rollover c _ :: rest => s.rollOver rest c.day false
    | .setRollover d :: rest => s.rollOver rest d true
    | _ => s)

/-! ## Notices of the Profile Engine (R92, R107, R117) -/

/-- A non-FREE record holding a profile number. -/
def Station.holds (p : ProfIx) (r : Station) : Bool := r.state != .free && r.profile == some p

/-- The notice at the front has been taken. -/
def State.noticeTaken (s : State) (rest : List Notice) : State := { s with stt := { s.stt with notices := rest } }

/-- STATE_CHANGE_NOTICE (R92, R117): a state-change or a use-change notice. -/
def execStateChangeNotice (s : State) : Result :=
  .next (match s.stt.notices with
    | .stateChange p :: rest => (s.noticeTaken rest).eachSta (Station.holds p) State.recomputeGate
    | .useChange p :: rest => (s.noticeTaken rest).eachSta (Station.holds p) State.recomputeGate
    | _ => s)

/-- ALLOWANCE_NOTICE (R107, R117). -/
def execAllowanceNotice (s : State) : Result :=
  .next (match s.stt.notices with
    | .allowance p :: rest => (s.noticeTaken rest).eachSta (Station.holds p) State.recomputeSpent
    | _ => s)

end Sys2Proof.Machine
end

