-- ==== Sys2Proof/Machine/Clock.lean ====
section
/-!
DEFINITION. The Schedule Clock: its two orders, its minute events, and the passing of one microsecond (chapter 6).
-/

namespace Sys2Proof.Machine

open Sys2Proof

/-! ## The passing of time (R7, R66, R97 to R99) -/

/-- One millisecond of the calendar or of the unset-minute count. A boundary reached is marked as due, and the fields
advance past it in the step that gives its event. -/
def Sck.millisecond (c : Sck) : Sck :=
  let c := { c with ms := c.ms + 1, usPart := 0 }
  if c.set then
    if c.phase + 1 < 1000 then { c with phase := c.phase + 1 }
    else if c.second < 59 then { c with phase := 0, second := c.second + 1 }
    else { c with phase := 0, minuteDue := true }
  else if c.unsetCount + 1 < 60000 then { c with unsetCount := c.unsetCount + 1 }
  else { c with unsetDue := true }

/-- The checks of a whole second become due (R42, R51, R130). -/
def State.wholeSecond (s : State) : State :=
  { s with
    frp := { s.frp with agingDue := true }
    flc := { s.flc with agingDue := true }
    mlc := { s.mlc with beaconDue := true } }

/-- One microsecond passes. -/
def State.tick (s : State) : State :=
  let s := { s with sck := { s.sck with us := s.sck.us + 1 } }
  if s.sck.counting then
    if s.sck.usPart + 1 < 1000 then { s with sck := { s.sck with usPart := s.sck.usPart + 1 } }
    else
      let s := { s with sck := s.sck.millisecond }
      if s.now.toNat % 1000 = 0 then s.wholeSecond else s
  else s

/-! ## Minute events (R98 to R100) -/

/-- The calendar after a minute boundary; at midnight the day and the weekday advance (R98). -/
def Sck.nextMinute (c : Sck) : Sck :=
  if c.minute + 1 < 1440 then { c with minute := c.minute + 1, second := 0, minuteDue := false }
  else { c with minute := 0, second := 0, minuteDue := false, day := c.day + 1, weekday := c.weekday + 1 }

/-- The calendar as an event carries it (R98). -/
def Sck.calendar (c : Sck) : Calendar := ⟨c.day, c.weekday, c.minute, c.second⟩

/-- A minute event reaches the Station Table, the Profile Engine and the Update Stager (R100), each with what the event
carries (R98). The Profile Engine's triggers are then on the way of the Schedule Clock: a spent-change event of the
Station Table's rollover step may be taken before or after each of them (R119, `nextTrigger`). -/
def State.giveMinute (s : State) (k : MinuteKind) (c : Cause) (e : ClockEvent) : State :=
  State.triggerAll
    { s with
      stt := { s.stt with minutes := s.stt.minutes ++ [k] }
      ups := { s.ups with minutes := s.ups.minutes ++ [e] } }
    c (some e)

/-- MINUTE_EVENT (R98): the minute boundary that is due. -/
def execMinuteEvent (s : State) : Result :=
  .next (if s.sck.minuteDue then
    let rolls := s.sck.minute + 1 == 1440
    let s := { s with sck := s.sck.nextMinute }
    let e : ClockEvent := ⟨some s.sck.calendar, s.now⟩
    if rolls then s.giveMinute (.rollover s.sck.calendar s.now) .rollover e else s.giveMinute (.minute e) .minute e
  else s)

/-- UNSET_MINUTE_EVENT (R99): the unset minute that is due. -/
def execUnsetMinuteEvent (s : State) : Result :=
  .next (if s.sck.unsetDue then
    let e : ClockEvent := ⟨none, s.now⟩
    State.giveMinute { s with sck := { s.sck with unsetDue := false, unsetCount := 0 } } (.minute e) .minute e
  else s)

/-! ## Orders (R101, R102) -/

/-- Every non-FREE record holding UNSTAMPED takes a day stamp (R101 step 2). -/
def State.stampAll (s : State) (day : Word) : State :=
  { s with stt := { s.stt with
      recs := s.stt.recs.map fun r => if r.state != .free && r.day.isNone then { r with day := some day } else r } }

/-- What follows the setting of the calendar (R101 steps 2 to 6), for a clock that held `old` if it was set: the stamps
of a clock newly set, the day rollover or the clock change, and in every case the spent flags. -/
def State.clockSet (s : State) (wasSet : Bool) (old day : Word) : State :=
  let s := if wasSet && decide (old < day) then
      State.triggerAll { s with stt := { s.stt with minutes := s.stt.minutes ++ [.setRollover day] } } .setRollover none
    else
      State.triggerAll (if wasSet then s else s.stampAll day) .clockChange none
  s.recomputeAllSpent

/-- SET_CLOCK (kind 0x40, R101): day number, weekday, minute, second. -/
def execSetClock (s : State) : Result :=
  workOrder .sck 0x40 (fun o s =>
    let day : Word := BitVec.ofNat 32 (o.u32 0)
    match finOf 7 (o.u8 4) with
    | none => s.refuse o .badParam
    | some weekday =>
      if 1439 < o.u16 5 ∨ 59 < o.u8 7 then s.refuse o .badParam
      else
        let wasSet := s.sck.set
        let old := s.sck.day
        let s := { s with sck := { s.sck with
          set := true
          day := day
          weekday := weekday
          minute := o.u16 5
          second := o.u8 7
          phase := 0
          minuteDue := false
          unsetDue := false } }
        (s.clockSet wasSet old day).accept o
          ([flagByte (wasSet && decide (old < day)), flagByte (!wasSet)] ++ le 4 (if wasSet then old.toNat else 0))) s

/-- The calendar as result fields (R102). -/
def Sck.info (c : Sck) : List Byte :=
  (if c.set then [1] ++ le 4 c.day.toNat ++ [byteOf c.weekday.val] ++ le 2 c.minute ++ [byteOf c.second]
    else List.replicate 9 0) ++ le 4 c.ms.toNat

/-- CLOCK_INFO (kind 0x41, R102). -/
def execClockInfo (s : State) : Result := workOrder .sck 0x41 (fun o s => s.accept o s.sck.info) s

end Sys2Proof.Machine
end

