-- ==== Sys2Proof/Machine/Mesh.lean ====
section
/-!
DEFINITION. The Mesh Link Controller: its orders, the frames it takes, its beacons and presence (chapter 8).
-/

namespace Sys2Proof.Machine

open Sys2Proof

/-! ## Orders (R123, R126, R127, R134) -/

/-- A record whose exchange names this node by its number (R123). -/
def Station.inMove (r : Station) : Bool :=
  match r.state with
  | .offering | .moving | .withdrawing | .left | .reserved => true
  | .active => r.handoff.isSome
  | .free | .watched => false

/-- An ether type a SET_NODE may set (R123). -/
def etherTypeOk (t : Nat) : Bool := 0x0600 ≤ t && t != 0x0800 && t != 0x86DD

/-- The identity a SET_NODE writes, with the effects of R124. -/
def State.writeNode (s : State) (n : Node) (m : Mac) (etherType : Nat) (enable : Bool) : State :=
  let t := { s with mlc := { s.mlc with
    set := true, node := n, mac := m, etherType := BitVec.ofNat 16 etherType, enable := enable } }
  if s.meshEnabled && !enable then t.meshOff else t

/-- SET_NODE (kind 0x60, R123): node number, MAC, ether type, enable. -/
def execSetNode (s : State) : Result :=
  workOrder .mlc 0x60 (fun o s =>
    let m := macAt o.params 1
    let t := o.u16 7
    match finOf 8 (o.u8 0) with
    | none => s.refuse o .badParam
    | some n =>
      if (s.findPeer n.val).isSome || !usableMac m || !etherTypeOk t then s.refuse o .badParam
      else if s.mlc.set && s.mlc.node != n && s.stt.recs.toList.any Station.inMove then s.refuse o .again
      else (s.writeNode n m t (o.flag 9)).accept o
        ([byteOf n.val] ++ le 2 t ++ [flagByte (o.flag 9), flagByte (!s.mlc.set)])) s

/-- The rate a SET_PEER writes (R126). -/
def peerRate (n : Nat) : Nat := if n = 0 then 866 else clamp 1 4800 n

/-- A new peer record (Table 8-1). -/
def Peer.new (n : Node) (m : Mac) (rate : Nat) : Peer := ⟨n, m, rate, false, none, none, 0, false, false, false, 0, 0, 0⟩

/-- A peer record of another node number holds a MAC. -/
def State.macTaken (s : State) (n : Node) (m : Mac) : Bool :=
  (s.mlc.peers.toList.filterMap id).any fun q => q.node != n && q.mac == m

/-- SET_PEER (kind 0x61, R126): node number, MAC, link rate. -/
def execSetPeer (s : State) : Result :=
  workOrder .mlc 0x61 (fun o s =>
    let m := macAt o.params 1
    let rate := peerRate (o.u16 7)
    match finOf 8 (o.u8 0) with
    | none => s.refuse o .badParam
    | some n =>
      if (s.mlc.set && s.mlc.node == n) || !usableMac m || s.macTaken n m then s.refuse o .badParam
      else
        match s.peerAt n.val, firstIx s.mlc.peers Option.isNone with
        | some k, _ =>
          match s.mlc.peers.get k with
          | some q => (s.putPeer k (some { q with mac := m, rate := rate })).accept o [byteOf k.val, flagByte q.present]
          | none => s
        | none, some k => (s.putPeer k (some (Peer.new n m rate))).accept o [byteOf k.val, 0]
        | none, none => s.refuse o .noRoom) s

/-- CLEAR_PEER (kind 0x62, R127): node number. -/
def execClearPeer (s : State) : Result :=
  workOrder .mlc 0x62 (fun o s =>
    if 7 < o.u8 0 then s.refuse o .badParam
    else match s.peerAt (o.u8 0) with
      | none => s.refuse o .notFound
      | some k =>
        match s.mlc.peers.get k with
        | some q =>
          let s := if q.present then s.setPresence k q false .cleared else s
          (s.putPeer k none).accept o [byteOf k.val]
        | none => s) s

/-- A discard count as MESH_INFO writes it (R167). -/
def discardBytes (n : Nat) : List Byte := le 2 (min 65535 n)

/-- The result fields of MESH_INFO (R134). -/
def State.meshInfo (s : State) : List Byte :=
  let c := s.mlc
  [flagByte c.set, byteOf c.node.val] ++ macBytes c.mac ++ le 2 c.etherType.toNat ++ [flagByte c.enable]
    ++ le 2 c.seq.toNat ++ le 2 c.handoffCount.toNat ++ [byteOf s.presentPeers.length]
    ++ discardBytes c.discards.off ++ discardBytes c.discards.malformed ++ discardBytes c.discards.unknownSender
    ++ discardBytes c.discards.notForUs ++ discardBytes c.discards.repeated

/-- MESH_INFO (kind 0x63, R134). -/
def execMeshInfo (s : State) : Result := workOrder .mlc 0x63 (fun o s => s.accept o s.meshInfo) s

/-! ## Receiving (R129, R131) -/

/-- The causes of a discard (R129). -/
inductive Discard where
  | off | malformed | unknownSender | notForUs | repeated
deriving DecidableEq, Repr

def Discards.bump (d : Discards) : Discard → Discards
  | .off => { d with off := satAdd d.off 1 }
  | .malformed => { d with malformed := satAdd d.malformed 1 }
  | .unknownSender => { d with unknownSender := satAdd d.unknownSender 1 }
  | .notForUs => { d with notForUs := satAdd d.notForUs 1 }
  | .repeated => { d with repeated := satAdd d.repeated 1 }

/-- A mesh control frame is discarded and counted. -/
def State.discard (s : State) (d : Discard) : State :=
  { s with mlc := { s.mlc with discards := s.mlc.discards.bump d } }

/-- What a valid message of a kind and body leaves in its sender's record (R129, R131). DEDUCED, log entry 26: bits 7 to 3
of a BEACON's flags byte are ignored. -/
def Peer.heard (q : Peer) (now : Ms) (seq : Half) (kind : Nat) (b : List Byte) : Peer :=
  let q := { q with lastHeard := some now, lastSeq := some seq }
  if kind = kBeacon then
    { q with
      load := (byteAt b 0).toNat
      hold := (byteAt b 1).getLsbD 0
      staging := (byteAt b 1).getLsbD 1
      stagedComplete := (byteAt b 1).getLsbD 2
      chunksHeld := beAt b 2 2
      stagingId := BitVec.ofNat 32 (beAt b 4 4)
      activeId := BitVec.ofNat 32 (beAt b 8 4) }
  else q

/-- A valid message is given to its block (Table 8-2). -/
def State.deliver (s : State) (m : Msg) : State :=
  if m.kind = kBeacon then s
  else if m.kind < kChunkWant then { s with hoc := { s.hoc with messages := s.hoc.messages ++ [m] } }
  else { s with ups := { s.ups with messages := s.ups.messages ++ [m] } }

/-- A valid message of the peer at a position (R129). -/
def State.validMessage (s : State) (k : Fin 7) (q : Peer) (f : List Byte) : State :=
  let kind := (byteAt f 15).toNat
  let body := (f.drop 22).take (beAt f 20 2)
  let r := q.heard s.now (BitVec.ofNat 16 (beAt f 18 2)) kind body
  let s := if q.present then s.putPeer k (some r) else s.setPresence k r true .heard
  s.deliver ⟨q.node, kind, body⟩

/-- The tests of a mesh control frame, in order (R129). -/
def State.meshFrame (s : State) (f : List Byte) : State :=
  let receiver := (byteAt f 17).toNat
  if !s.meshEnabled then s.discard .off
  else if !formOk f then s.discard .malformed
  else match s.peerAt (byteAt f 16).toNat with
    | none => s.discard .unknownSender
    | some k =>
      match s.mlc.peers.get k with
      | none => s.discard .unknownSender
      | some q =>
        if q.mac ≠ frameSource f then s.discard .unknownSender
        else if receiver ≠ 15 ∧ receiver ≠ s.mlc.node.val then s.discard .notForUs
        else if q.lastSeq = some (BitVec.ofNat 16 (beAt f 18 2)) then s.discard .repeated
        else s.validMessage k q f

/-- MESH_CONTROL_FRAME (R129): the frame handed over first. -/
def execMeshControlFrame (s : State) : Result :=
  .next (match s.mlc.frames with
    | [] => s
    | f :: rest => State.meshFrame { s with mlc := { s.mlc with frames := rest } } f)

/-! ## Beacons and presence (R130, R131) -/

/-- The body of a BEACON (R130, Table 11-5). -/
def State.beaconBody (s : State) : List Byte :=
  let staging := s.ups.state != .idle
  [byteOf s.load, byteOf (flagBits [s.holding, staging, s.ups.state == .complete || s.ups.state == .hold])]
    ++ be 2 (if staging then s.chunksHeld else 0) ++ be 4 (if staging then s.stagingId.toNat else 0)
    ++ be 4 s.activeId.toNat

/-- BEACON_TIMER (R130): the beacon of a whole second. -/
def execBeaconTimer (s : State) : Result :=
  .next (if s.mlc.beaconDue then
    State.sendBeacon { s with mlc := { s.mlc with beaconDue := false } } s.beaconBody
  else s)

/-- A PRESENT peer has been silent for 3000 ms (R131). -/
def Peer.silent (q : Peer) (now : Ms) : Bool :=
  q.present && (match q.lastHeard with
    | some t => pastBy now t 3000
    | none => false)

/-- PEER_SILENT (R131). -/
def execPeerSilent (n : Node) (s : State) : Result :=
  .next (match s.peerAt n.val with
    | some k =>
      match s.mlc.peers.get k with
      | some q => if q.silent s.now then s.setPresence k q false .silent else s
      | none => s
    | none => s)

/-- The offers to a peer that has become ABSENT fail (R143). DESIGN CHOICE, log entry 27: where several records offer to
that peer, they fail, and their reports go out, in index order 0 to 127, which R143 leaves open. -/
def State.offersFail (s : State) (n : Node) : State :=
  (List.finRange 128).foldl (fun s i =>
    match (s.sta i).state, (s.sta i).handoff with
    | .offering, some h => if h.peer = n then s.offerFails i h reasonAbsent false else s
    | _, _ => s) s

/-- The serve-list entries of a peer are removed (R163). DESIGN CHOICE, log entry 28: a serve to that peer already under
way, whose entry has left the list, runs on. -/
def State.dropServesOf (s : State) (n : Node) : State :=
  { s with ups := { s.ups with serves := s.ups.serves.filter fun e => e.node != n } }

/-- The fetch whose source has become ABSENT selects the next (R162). -/
def State.sourceGone (s : State) (n : Node) : State :=
  match s.ups.fetch with
  | some f => if f.source = some n then s.selectSource f else s
  | none => s

/-- PRESENCE_NOTICE (R131, R143, R162, R163): the notice sent first, at both its receivers. DESIGN CHOICE, log entry 34: in
this one step the Handoff Controller does its work first (the offers fail), then the Update Stager (serves dropped, then
the fetch's source), for the spec gives no order between the two receivers. -/
def execPresenceNotice (s : State) : Result :=
  .next (match s.mlc.presence with
    | [] => s
    | (n, present) :: rest =>
      let s := { s with mlc := { s.mlc with presence := rest } }
      if present then s else ((s.offersFail n).dropServesOf n).sourceGone n)

end Sys2Proof.Machine
end

