-- ==== Sys2Proof/Machine/Profiles.lean ====
section
/-!
DEFINITION. The orders of the Profile Engine and the evaluation of a trigger (chapter 7).
-/

namespace Sys2Proof.Machine

open Sys2Proof

/-- EVALUATION (R115, R116, R119): the trigger that reached the Profile Engine next. Where triggers of the Station Table
and of the Schedule Clock wait, which of them came first is a free value (log entry 15). -/
def execEvaluation (s : State) : Result :=
  .next (match nextTrigger s.freeWay s.pfe.triggers with
    | none => s
    | some (t, rest) =>
      let s := { s with pfe := { s.pfe with triggers := rest, taken := s.pfe.taken + 1 } }
      (if (s.profile t.profile).inUse then s.evaluate t else s).reply t.profile t.reply)

/-- The meaning of an order on a profile whose number stands first: a number above 15 is BAD_PARAM (R122). -/
def workProfile (k : Byte) (f : Order → ProfIx → State → State) (s : State) : Result :=
  workOrder .pfe k (fun o s =>
    match finOf 16 (o.u8 0) with
    | some p => f o p s
    | none => s.refuse o .badParam) s

/-- The lock test of the orders that write a profile (R122). -/
def Lock.refusesWrite (l : Lock) : Bool := l != .unlocked

/-- The lock test of pause, resume and restart (R122). -/
def Lock.refusesControl (l : Lock) : Bool := l == .fullLocked

/-- The order's own step is followed by one evaluation when the profile is in use, which gives the answer; else the
answer is given at once. -/
def State.thenEvaluate (s : State) (o : Order) (p : ProfIx) (c : Cause) (before after : List Byte) : State :=
  if (s.profile p).inUse then (s.mark o.id .working).trigger ⟨p, c, none, some ⟨o.id, before, after⟩⟩
  else s.accept o (before ++ [byteOf (s.profile p).current.val] ++ after)

/-! ## SET_PROFILE and CLEAR_PROFILE (R110, R111) -/

/-- Window k of a SET_PROFILE: mask, start, end. -/
def windowAt (o : Order) (k : Fin 4) : Window :=
  ⟨BitVec.ofNat 7 (o.u8 (19 + 5 * k.val)), o.u16 (20 + 5 * k.val), o.u16 (22 + 5 * k.val)⟩

/-- The start and end minutes of every window are minutes of a day. -/
def windowsOk (o : Order) : Bool :=
  (List.finRange 4).all fun k => (windowAt o k).start ≤ 1439 && (windowAt o k).stop ≤ 1439

/-- The profile a SET_PROFILE writes (R110). -/
def profileOf (x : Profile) (o : Order) : Profile :=
  { x with
    inUse := true
    allowances := Vector.ofFn fun k : Fin 7 => clamp 0 1440 (o.u16 (1 + 2 * k.val))
    threshold := clamp 1 1048575 (o.u32 15)
    windows := Vector.ofFn (windowAt o) }

/-- SET_PROFILE (kind 0x50, R110): profile, seven allowances, threshold, four windows. DESIGN CHOICE, log entry 33: the
allowance notice goes out before the use-change notice of the same step, an order R117 leaves open. -/
def execSetProfile (s : State) : Result :=
  workProfile 0x50 (fun o p s =>
    let x := s.profile p
    if !windowsOk o then s.refuse o .badParam
    else if x.lock.refusesWrite then s.refuse o .locked
    else
      let s := (s.setProfile p (profileOf x o)).notice (.allowance p)
      let s := if x.inUse then s else s.notice (.useChange p)
      s.thenEvaluate o p .setProfile [byteOf p.val] [flagByte (!x.inUse)]) s

/-- CLEAR_PROFILE (kind 0x52, R111): profile. DESIGN CHOICE, log entry 33: the use-change notice goes out before the
allowance notice of the same step, an order R117 leaves open. -/
def execClearProfile (s : State) : Result :=
  workProfile 0x52 (fun o p s =>
    let x := s.profile p
    if x.lock.refusesWrite then s.refuse o .locked
    else
      let s := if x.inUse then
          ((s.setProfile p { x with inUse := false }).notice (.useChange p)).notice (.allowance p)
        else s
      s.accept o [byteOf p.val, byteOf x.current.val]) s

/-! ## SET_PROGRAM (R113) -/

/-- The transition of two bytes: enabled in bit 7 and the condition in bits 3..0, then the to-state (Table 11-1). A
disabled one is held as cleared; an enabled one is none when it is not valid. DESIGN CHOICE, log entry 26: bits 6..4,
which the table does not name, are not judged. -/
def transitionAt (l : List Byte) (i count : Nat) : Option Transition :=
  let b := byteAt l i
  if b.getLsbD 7 then
    match Cond.ofCode (b.toNat % 16), finOf 6 (byteAt l (i + 1)).toNat with
    | some c, some dest => if dest.val < count then some ⟨true, c, dest⟩ else none
    | _, _ => none
  else some .clear

/-- The state entry of ten bytes. -/
def progStateAt (l : List Byte) (i count : Nat) : Option ProgState :=
  let ts := Vector.ofFn fun k : Fin 4 => transitionAt l (i + 2 + 2 * k.val) count
  match Gate.ofCode (byteAt l i).toNat, Gate.ofCode (byteAt l (i + 1)).toNat with
  | some level, some spentLevel =>
    if ts.toList.all Option.isSome then some ⟨level, spentLevel, ts.map fun t => t.getD .clear⟩ else none
  | _, _ => none

/-- The program a SET_PROGRAM carries, when it is valid as a whole: count, initial state and the six states. -/
def programOf (o : Order) : Option (Nat × Fin 6 × Vector ProgState 6) :=
  let count := o.u8 1
  let states := Vector.ofFn fun k : Fin 6 =>
    if k.val < count then progStateAt o.params (3 + 10 * k.val) count else some ProgState.clear
  match finOf 6 (o.u8 2) with
  | some initial =>
    if 1 ≤ count ∧ count ≤ 6 ∧ initial.val < count ∧ states.toList.all Option.isSome then
      some (count, initial, states.map fun x => x.getD .clear)
    else none
  | none => none

/-- SET_PROGRAM (kind 0x51, R113): profile, count, initial state, six state entries. -/
def execSetProgram (s : State) : Result :=
  workProfile 0x51 (fun o p s =>
    let x := s.profile p
    if x.lock.refusesWrite then s.refuse o .locked
    else match programOf o with
      | none => s.refuse o .badParam
      | some (count, initial, states) =>
        (s.toInitial p { x with count := count, initial := initial, states := states } .setProgram).thenEvaluate o p
          .setProgram [byteOf p.val] []) s

/-! ## Pause, restart and lock (R120 to R122) -/

/-- A pause flag is set or cleared (R120). -/
def State.setPause (s : State) (o : Order) (p : ProfIx) (flag : Bool) (c : Cause) : State :=
  let x := s.profile p
  if x.lock.refusesControl then s.refuse o .locked
  else (s.setProfile p { x with paused := flag }).thenEvaluate o p c
    [byteOf p.val, flagByte flag, flagByte (x.paused != flag)] []

/-- PAUSE_PROFILE (kind 0x53, R120): profile. -/
def execPauseProfile (s : State) : Result := workProfile 0x53 (fun o p s => s.setPause o p true .pause) s

/-- RESUME_PROFILE (kind 0x54, R120): profile. -/
def execResumeProfile (s : State) : Result := workProfile 0x54 (fun o p s => s.setPause o p false .resume) s

/-- RESTART_PROFILE (kind 0x55, R121): profile. -/
def execRestartProfile (s : State) : Result :=
  workProfile 0x55 (fun o p s =>
    let x := s.profile p
    if x.lock.refusesControl then s.refuse o .locked
    else (s.toInitial p x .restart).thenEvaluate o p .restart [byteOf p.val] []) s

/-- The higher of two lock levels. -/
def Lock.raise (present asked : Lock) : Lock := if present.code < asked.code then asked else present

/-- RAISE_LOCK (kind 0x56, R122): profile, level. -/
def execRaiseLock (s : State) : Result :=
  workProfile 0x56 (fun o p s =>
    let x := s.profile p
    match Lock.ofCode (o.u8 1) with
    | none => s.refuse o .badParam
    | some l => (s.setProfile p { x with lock := x.lock.raise l }).accept o [byteOf (x.lock.raise l).code]) s

end Sys2Proof.Machine
end

