-- ==== Sys2Proof/Machine/Dispatch.lean ====
section
/-!
DEFINITION. The effect of every command: one arm and one meaning per row of the command table.
-/

namespace Sys2Proof.Machine

open Sys2Proof

def exec (i : Instr) (s : State) : Host.Outcome State Fault Refusal :=
  match i with
  | .powerOn => Sys2Proof.Machine.execPowerOn s
  | .run withNudge => Sys2Proof.Machine.execRun withNudge s
  | .reset => Sys2Proof.Machine.execReset s
  | .nudge => Sys2Proof.Machine.execNudge s
  | .eventsWrite value => Sys2Proof.Machine.execEventsWrite value s
  | .areaSizeWrite value => Sys2Proof.Machine.execAreaSizeWrite value s
  | .registerWrite offset width value => Sys2Proof.Machine.execRegisterWrite offset width value s
  | .resetDone => Sys2Proof.Machine.execResetDone s
  | .scanTimerExpiry => Sys2Proof.Machine.execScanTimerExpiry s
  | .look => Sys2Proof.Machine.execLook s
  | .takeComplete => Sys2Proof.Machine.execTakeComplete s
  | .unknownOrder => Sys2Proof.Machine.execUnknownOrder s
  | .answer => Sys2Proof.Machine.execAnswer s
  | .reportArrival => Sys2Proof.Machine.execReportArrival s
  | .placement => Sys2Proof.Machine.execPlacement s
  | .busAccessComplete ok data => Sys2Proof.Machine.execBusAccessComplete ok data s
  | .busAccessTimeout => Sys2Proof.Machine.execBusAccessTimeout s
  | .nop => Sys2Proof.Machine.execNop s
  | .engineInfo => Sys2Proof.Machine.execEngineInfo s
  | .readTable => Sys2Proof.Machine.execReadTable s
  | .readMore => Sys2Proof.Machine.execReadMore s
  | .setPort => Sys2Proof.Machine.execSetPort s
  | .portStats => Sys2Proof.Machine.execPortStats s
  | .acceptance port frame sample => Sys2Proof.Machine.execAcceptance port frame sample s
  | .endResolution port => Sys2Proof.Machine.execEndResolution port s
  | .flowLookup port => Sys2Proof.Machine.execFlowLookup port s
  | .gateCheck port => Sys2Proof.Machine.execGateCheck port s
  | .activityByteCounting port => Sys2Proof.Machine.execActivityByteCounting port s
  | .destinationResolution port => Sys2Proof.Machine.execDestinationResolution port s
  | .enqueue port => Sys2Proof.Machine.execEnqueue port s
  | .rateNotice radio mac rate => Sys2Proof.Machine.execRateNotice radio mac rate s
  | .overheardSample mac sample => Sys2Proof.Machine.execOverheardSample mac sample s
  | .linkReady port => Sys2Proof.Machine.execLinkReady port s
  | .transmitOpportunity port => Sys2Proof.Machine.execTransmitOpportunity port s
  | .transmitCompletion port => Sys2Proof.Machine.execTransmitCompletion port s
  | .addressAging => Sys2Proof.Machine.execAddressAging s
  | .flowAging => Sys2Proof.Machine.execFlowAging s
  | .setRule => Sys2Proof.Machine.execSetRule s
  | .clearRule => Sys2Proof.Machine.execClearRule s
  | .setFlowTimes => Sys2Proof.Machine.execSetFlowTimes s
  | .setQuiet => Sys2Proof.Machine.execSetQuiet s
  | .admitStation => Sys2Proof.Machine.execAdmitStation s
  | .departStation => Sys2Proof.Machine.execDepartStation s
  | .setStation => Sys2Proof.Machine.execSetStation s
  | .grantBonus => Sys2Proof.Machine.execGrantBonus s
  | .setClock => Sys2Proof.Machine.execSetClock s
  | .clockInfo => Sys2Proof.Machine.execClockInfo s
  | .minuteEvent => Sys2Proof.Machine.execMinuteEvent s
  | .unsetMinuteEvent => Sys2Proof.Machine.execUnsetMinuteEvent s
  | .activeMinuteCount => Sys2Proof.Machine.execActiveMinuteCount s
  | .dayRollover => Sys2Proof.Machine.execDayRollover s
  | .stateChangeNotice => Sys2Proof.Machine.execStateChangeNotice s
  | .allowanceNotice => Sys2Proof.Machine.execAllowanceNotice s
  | .evaluation => Sys2Proof.Machine.execEvaluation s
  | .setProfile => Sys2Proof.Machine.execSetProfile s
  | .setProgram => Sys2Proof.Machine.execSetProgram s
  | .clearProfile => Sys2Proof.Machine.execClearProfile s
  | .pauseProfile => Sys2Proof.Machine.execPauseProfile s
  | .resumeProfile => Sys2Proof.Machine.execResumeProfile s
  | .restartProfile => Sys2Proof.Machine.execRestartProfile s
  | .raiseLock => Sys2Proof.Machine.execRaiseLock s
  | .setNode => Sys2Proof.Machine.execSetNode s
  | .setPeer => Sys2Proof.Machine.execSetPeer s
  | .clearPeer => Sys2Proof.Machine.execClearPeer s
  | .meshInfo => Sys2Proof.Machine.execMeshInfo s
  | .meshControlFrame => Sys2Proof.Machine.execMeshControlFrame s
  | .beaconTimer => Sys2Proof.Machine.execBeaconTimer s
  | .peerSilent node => Sys2Proof.Machine.execPeerSilent node s
  | .presenceNotice => Sys2Proof.Machine.execPresenceNotice s
  | .setRoaming => Sys2Proof.Machine.execSetRoaming s
  | .checkEvent => Sys2Proof.Machine.execCheckEvent s
  | .signalQuery => Sys2Proof.Machine.execSignalQuery s
  | .listenWindowEnd mac node => Sys2Proof.Machine.execListenWindowEnd mac node s
  | .signalReport => Sys2Proof.Machine.execSignalReport s
  | .queryDeadline station => Sys2Proof.Machine.execQueryDeadline station s
  | .offer => Sys2Proof.Machine.execOffer s
  | .accept => Sys2Proof.Machine.execAccept s
  | .decline => Sys2Proof.Machine.execDecline s
  | .retryWaitExpiry station => Sys2Proof.Machine.execRetryWaitExpiry station s
  | .moveDeadline station => Sys2Proof.Machine.execMoveDeadline station s
  | .confirm => Sys2Proof.Machine.execConfirm s
  | .settle => Sys2Proof.Machine.execSettle s
  | .settleAck => Sys2Proof.Machine.execSettleAck s
  | .settleWaitEnd station => Sys2Proof.Machine.execSettleWaitEnd station s
  | .graceDeadline station => Sys2Proof.Machine.execGraceDeadline station s
  | .arrivalDeadline station => Sys2Proof.Machine.execArrivalDeadline station s
  | .withdraw => Sys2Proof.Machine.execWithdraw s
  | .withdrawAck => Sys2Proof.Machine.execWithdrawAck s
  | .forceHandoff => Sys2Proof.Machine.execForceHandoff s
  | .slotRecordCheck => Sys2Proof.Machine.execSlotRecordCheck s
  | .flashOperationComplete data => Sys2Proof.Machine.execFlashOperationComplete data s
  | .flashTimeout => Sys2Proof.Machine.execFlashTimeout s
  | .beginStaging => Sys2Proof.Machine.execBeginStaging s
  | .stageChunk => Sys2Proof.Machine.execStageChunk s
  | .resumeStaging => Sys2Proof.Machine.execResumeStaging s
  | .cancelStaging => Sys2Proof.Machine.execCancelStaging s
  | .fetchFromPeers => Sys2Proof.Machine.execFetchFromPeers s
  | .batchDeadline => Sys2Proof.Machine.execBatchDeadline s
  | .selectionRetry => Sys2Proof.Machine.execSelectionRetry s
  | .chunkData => Sys2Proof.Machine.execChunkData s
  | .assemblyTimeout buffer => Sys2Proof.Machine.execAssemblyTimeout buffer s
  | .chunkNone => Sys2Proof.Machine.execChunkNone s
  | .chunkWant => Sys2Proof.Machine.execChunkWant s
  | .serveStart => Sys2Proof.Machine.execServeStart s
  | .setUpdateWindow => Sys2Proof.Machine.execSetUpdateWindow s
  | .requestInstall => Sys2Proof.Machine.execRequestInstall s
  | .holdMinuteCount => Sys2Proof.Machine.execHoldMinuteCount s
  | .commitImage => Sys2Proof.Machine.execCommitImage s
  | .cancelInstall => Sys2Proof.Machine.execCancelInstall s
  | .confirmImage => Sys2Proof.Machine.execConfirmImage s
  | .readFlash => Sys2Proof.Machine.execReadFlash s

end Sys2Proof.Machine
end

