-- ==== Sys2Proof/Machine/Idle.lean ====
section
/-!
DEFINITION. What the part does when no command is waiting: the commands that its own state makes due, in a fixed order.
The manual leaves the order of independent steps open (log entry 1); commands in the queue may take any other.
-/

namespace Sys2Proof.Machine

open Sys2Proof

/-- The command that works an order of a kind (Table 11-1); a kind that is not defined is UNKNOWN_ORDER (R13). -/
def orderInstr (k : Byte) : Instr :=
  match k.toNat with
  | 0x00 => .nop | 0x01 => .engineInfo | 0x02 => .readTable | 0x03 => .readMore
  | 0x10 => .setPort | 0x11 => .portStats
  | 0x20 => .setRule | 0x21 => .clearRule | 0x22 => .setFlowTimes | 0x23 => .setQuiet
  | 0x30 => .admitStation | 0x31 => .departStation | 0x32 => .setStation | 0x33 => .grantBonus
  | 0x40 => .setClock | 0x41 => .clockInfo
  | 0x50 => .setProfile | 0x51 => .setProgram | 0x52 => .clearProfile | 0x53 => .pauseProfile | 0x54 => .resumeProfile
  | 0x55 => .restartProfile | 0x56 => .raiseLock
  | 0x60 => .setNode | 0x61 => .setPeer | 0x62 => .clearPeer | 0x63 => .meshInfo
  | 0x70 => .setRoaming | 0x71 => .forceHandoff
  | 0x80 => .beginStaging | 0x81 => .stageChunk | 0x82 => .resumeStaging | 0x83 => .cancelStaging
  | 0x84 => .fetchFromPeers | 0x85 => .setUpdateWindow | 0x86 => .requestInstall | 0x87 => .commitImage
  | 0x88 => .cancelInstall | 0x89 => .confirmImage
  | 0x90 => .readFlash
  | _ => .unknownOrder

/-- The command that takes a handoff or chunk message of a kind (R171). -/
def messageInstr (kind : Nat) : Option Instr :=
  match kind with
  | 2 => some .signalQuery | 3 => some .signalReport | 4 => some .offer | 5 => some .accept | 6 => some .decline
  | 7 => some .confirm | 8 => some .settle | 9 => some .settleAck | 10 => some .withdraw | 11 => some .withdrawAck
  | 12 => some .chunkWant | 13 => some .chunkData | 14 => some .chunkNone | _ => none

/-- A block waits for the slot record check before it works its orders (R153). -/
def BlockId.waitsForBoot : BlockId → Bool
  | .ups | .fls => true
  | .exu | .frp | .flc | .stt | .sck | .pfe | .mlc | .hoc => false

/-- The command that works the order at the head of a block's list, when it can be worked now. -/
def State.orderDue (s : State) (b : BlockId) : Option Instr :=
  if b.waitsForBoot && s.fls.boot != .done then none
  else match s.headOrder b with
    | none => none
    | some o =>
      match o.progress with
      | .fresh | .cancelled | .cancelNothing | .cancelRefused | .cancelErased | .cancelFailed => some (orderInstr o.kind)
      | .working | .cancelErasing => none

/-- A command when its condition holds. -/
def dueIf (b : Bool) (i : Instr) : Option Instr := if b then some i else none

/-- The command of the stage a port's frame under ingress waits for. -/
def State.stageDue (s : State) (p : PortId) : Option Instr :=
  match (s.port p).ingress with
  | none => none
  | some x =>
    match x.stage with
    | .ends => some (.endResolution p)
    | .flow => some (.flowLookup p)
    | .gate => some (.gateCheck p)
    | .activity => some (.activityByteCounting p)
    | .destination => some (.destinationResolution p)
    | .enqueue => some (.enqueue p)

/-- The timer of a record that has expired. -/
def State.timerDue (s : State) (i : StaIx) : Option Instr :=
  let r := s.sta i
  let retry := dueIf (match r.retryAt with
    | some t => reached s.now t
    | none => false) (.retryWaitExpiry i)
  match r.state with
  | .watched => dueIf (match r.query with
      | some q => reached s.now q.deadline
      | none => false) (.queryDeadline i)
  | .active => retry.orElse fun _ => dueIf (s.pastDeadline i .active).isSome (.settleWaitEnd i)
  | .moving => dueIf (s.pastDeadline i .moving).isSome (.moveDeadline i)
  | .reserved => dueIf (s.pastDeadline i .reserved).isSome (.arrivalDeadline i)
  | .left => retry.orElse fun _ => dueIf (match r.forward with
      | some f => reached s.now f.grace
      | none => false) (.graceDeadline i)
  | .offering | .withdrawing => retry
  | .free => none

/-- The listen-list entry whose window has ended. -/
def State.listenDue (s : State) : Option Instr :=
  (s.hoc.listen.find? fun e => reached s.now e.until_).map fun e => .listenWindowEnd e.mac e.node

/-- The assembly buffer whose time has passed. -/
def State.assemblyDue (s : State) : Option Instr :=
  (firstIx s.ups.bufs fun b => match b with
    | some x => (match x.phase with
      | .assembling _ opened => pastBy s.now opened 1000
      | .reading | .erasing | .programming _ | .verifying => false)
    | none => false).map .assemblyTimeout

/-- The fetch's deadline or retry that has passed (R162). -/
def State.fetchDue (s : State) : Option Instr :=
  match s.ups.fetch with
  | none => none
  | some f =>
    let past := fun (t : Option Ms) => match t with
      | some t => reached s.now t
      | none => false
    (dueIf (past f.deadline) .batchDeadline).orElse fun _ => dueIf (past f.retryAt) .selectionRetry

/-- The notice or event the Station Table takes next (R100, R117). -/
def State.stationDue (s : State) : Option Instr :=
  match s.stt.minutes, s.stt.notices with
  | .minute _ :: _, _ => some .activeMinuteCount
  | .rollover _ _ :: _, _ => some .dayRollover
  | .setRollover _ :: _, _ => some .dayRollover
  | [], .allowance _ :: _ => some .allowanceNotice
  | [], .stateChange _ :: _ => some .stateChangeNotice
  | [], .useChange _ :: _ => some .stateChangeNotice
  | [], [] => none

/-- What the state makes due, in the order in which an idle step looks for it. -/
def internals : List (State → Option Instr) :=
  [ fun s => dueIf s.resetDue .resetDone,
    fun s => dueIf s.busLate .busAccessTimeout,
    fun s => dueIf s.flashLate .flashTimeout,
    fun s => dueIf s.sck.minuteDue .minuteEvent,
    fun s => dueIf s.sck.unsetDue .unsetMinuteEvent,
    State.stationDue,
    fun s => dueIf (!s.pfe.triggers.isEmpty) .evaluation,
    fun s => dueIf (!s.ups.minutes.isEmpty) .holdMinuteCount,
    fun s => dueIf s.frp.agingDue .addressAging,
    fun s => dueIf s.flc.agingDue .flowAging,
    fun s => dueIf s.mlc.beaconDue .beaconTimer,
    fun s => dueIf (!s.mlc.frames.isEmpty) .meshControlFrame,
    fun s => dueIf (!s.mlc.presence.isEmpty) .presenceNotice,
    fun s => s.hoc.messages.head?.bind fun m => messageInstr m.kind,
    fun s => s.ups.messages.head?.bind fun m => messageInstr m.kind,
    fun s => (s.mlc.peers.toList.filterMap id).findSome? fun q => dueIf (q.silent s.now) (.peerSilent q.node),
    fun s => dueIf s.checkDue .checkEvent,
    State.listenDue,
    fun s => (List.finRange 128).findSome? s.timerDue,
    State.fetchDue,
    State.assemblyDue,
    fun s => dueIf s.serveReady .serveStart,
    fun s => dueIf s.bootDue .slotRecordCheck,
    fun s => PortId.all.findSome? s.stageDue,
    fun s => PortId.all.findSome? fun p => dueIf (s.port p).opportunity (.transmitOpportunity p),
    fun s => [BlockId.exu, .frp, .flc, .stt, .sck, .pfe, .mlc, .hoc, .ups, .fls].findSome? s.orderDue,
    fun s => dueIf (!s.exu.answers.isEmpty) .answer,
    fun s => dueIf (!s.exu.arrivals.isEmpty) .reportArrival,
    fun s => dueIf s.scanDue .scanTimerExpiry,
    fun s => dueIf (s.exu.engine == .running && s.exu.look == .due) .look,
    fun s => dueIf (s.exu.engine == .running && s.exu.place == .due) .placement ]

/-- The command that is due when no command is waiting. -/
def State.nextInternal (s : State) : Option Instr := internals.findSome? fun f => f s

end Sys2Proof.Machine
end

