-- ==== Sys2Proof/Machine/Step.lean ====
section
/-!
DEFINITION. One step of the part: it takes the command at the front of the queue; with no command waiting it does what
its state makes due, and with nothing due one microsecond passes (log entry 1).
-/

namespace Sys2Proof.Machine

open Sys2Proof

/-- What the part does when no command is waiting. -/
def idle (s : State) : Host.Outcome State Fault Refusal :=
  match s.nextInternal with
  | some i => exec i s
  | none => .next s.tick

/-- One step. -/
def step (s : State) : Host.Outcome State Fault Refusal :=
  match s.pending with
  | i :: rest => exec i { s with pending := rest }
  | [] => idle s

/-- The state with the command that a word spells put at the front of its queue. -/
def State.withFetchWord (s : State) (nbits w : Nat) : State :=
  match Sys2Proof.decodeTableWord nbits w with
  | some i => { s with pending := i :: s.pending }
  | none => s

end Sys2Proof.Machine
end

