-- ==== Sys2Proof/Safety.lean ====
section
/-!
DEFINITION. The invariants of the part: what holds of every state that a run reaches, in the terms the statements
use. Each is a property of one state; the certificates state that reset has it and that every step keeps it.
-/

namespace Sys2Proof.Machine

open Sys2Proof

/-! ## The buffer pool (R40) -/

/-- The buffers of the pool that a port holds: its queued copies, the frame on its link, and the frames that were on the
link at an engine reset (R40, R80). -/
def Port.buffers (x : Port) : Nat :=
  (x.queues.toList.map List.length).sum + (if x.onLink.isSome then 1 else 0) + x.ghosts

/-- The buffers held outside the free count: those of the ports and of the hold lists. -/
def State.buffersHeld (s : State) : Nat := (s.frp.ports.toList.map Port.buffers).sum + s.heldAll

/-- Every buffer of the pool is either free or held by exactly one copy or frame (R40). A port has a frame on its link
exactly in SENDING (R72), and only a record in MOVING or WITHDRAWING has a hold list (R82). -/
structure PoolInv (s : State) : Prop where
  conserved : s.frp.free + s.buffersHeld = Config.poolSize
  sending : ∀ p : PortId, (s.port p).onLink.isSome = true ↔ (s.port p).tx = .sending
  holding : ∀ i : StaIx, (s.sta i).held.isSome = true → (s.sta i).state = .moving ∨ (s.sta i).state = .withdrawing

/-! ## Bounded lists (R12, R21, R38, R139, R163) -/

/-- A look is past the test for 16 orders in flight (R10, R12). -/
def Look.reading : Look → Bool
  | .idle | .due | .draining => false
  | .pointer | .head _ | .rest _ _ _ | .taking _ _ => true

/-- The lists of the part stay within the sizes the manual gives them. -/
structure ListsInv (s : State) : Prop where
  inFlight : s.exu.inFlight.length ≤ Config.maxInFlight
  looking : s.exu.look.reading = true → s.exu.inFlight.length < Config.maxInFlight
  hold : s.exu.hold.length ≤ Config.maxHold
  held : ∀ i : StaIx, ((s.sta i).held.getD []).length ≤ Config.maxHeldStation
  listen : s.hoc.listen.length ≤ Config.maxListen
  serves : s.ups.serves.length ≤ Config.maxServe

/-! ## The install hold (R151, R164) -/

/-- During an install hold no record is in a state that bars an install, and none is WATCHED. -/
def HoldInv (s : State) : Prop :=
  s.ups.state = .hold → ∀ i : StaIx,
    (s.sta i).state = .free ∨ (s.sta i).state = .active ∨ (s.sta i).state = .left

/-! ## The GAME bucket (R75, R76) -/

/-- A port's bucket stays within -65535 .. depth and its remainder below 1000. -/
structure BucketOk (x : Port) : Prop where
  low : -65535 ≤ x.bucket
  high : x.bucket ≤ (x.config.depth : Int)
  remainder : x.remainder < 1000

/-- The bucket of every port is in range. -/
def BucketInv (s : State) : Prop := ∀ p : PortId, BucketOk (s.port p)

/-! ## Costs and deficits (R68, R69, R77, R78) -/

/-- The longest body of a mesh message whose frame is at most 2048 bytes long (R128, R171). -/
def maxBody : Nat := 2026

/-- A port's deficits stay within the class's quantum + 17383 and are 0 while the class's queue is empty (R78): the quantum
counts only for the class the pointer stands at, once it has been added (R77). No queued copy costs more than 17384 (R68,
R69), every quantum is at least 1 and the overhead of a radio or of MESH at most 1000 (R29), and no frame under ingress
is longer than 2048 bytes (R32). -/
structure RoundOk (p : PortId) (x : Port) : Prop where
  overhead : portWired p = false → x.config.overhead ≤ 1000
  quantum : ∀ k : Fin 4, 1 ≤ x.config.quanta.get k
  cost : ∀ c : TClass, ∀ y ∈ x.queue c, y.cost ≤ 17384
  taken : ∀ y, x.ingress = some y → y.frame.length ≤ 2048
  empty : ∀ k : Fin 4, x.queue (drrClass k) = [] → x.deficits.get k = 0
  deficit : ∀ k : Fin 4, x.deficits.get k ≤
    17383 + if x.pointer = k ∧ x.quantumAdded = true then x.config.quanta.get k else 0

/-- The deficits of every port are in range, and no frame that may yet join a queue, held for a station or built from the
body an offer repeats (R141), is longer than 2048 bytes. -/
structure RoundInv (s : State) : Prop where
  port : ∀ p : PortId, RoundOk p (s.port p)
  held : ∀ (i : StaIx) (l : List Held), (s.sta i).held = some l → ∀ h ∈ l, h.frame.length ≤ 2048
  offer : ∀ (i : StaIx) (h : Handoff), (s.sta i).handoff = some h → h.body.length ≤ maxBody

/-! ## MACs (R41) -/

/-- No MAC stands in two non-FREE records, in two address entries, or in one of each (R41). -/
structure MacInv (s : State) : Prop where
  records : ∀ i j : StaIx, (s.sta i).state ≠ .free → (s.sta j).state ≠ .free → (s.sta i).mac = (s.sta j).mac → i = j
  entries : ∀ (i j : Fin 256) (e f : AddrEntry), s.frp.addresses.get i = some e → s.frp.addresses.get j = some f →
    e.mac = f.mac → i = j
  apart : ∀ (i : Fin 256) (e : AddrEntry) (j : StaIx), s.frp.addresses.get i = some e → (s.sta j).state ≠ .free →
    e.mac ≠ (s.sta j).mac

end Sys2Proof.Machine
end

