-- ==== Sys2Proof/Certificates/Slice0/Obligations.lean ====
section
/-!
DEFINITION. The statements about the part. A statement about an order of the host supposes the order at the head of its
block's list, taken and not begun (`freshHead`), as R13 has each block work its orders in turn. `State.finish`,
`State.accept` and `State.refuse` hand an answer to the Exchange Unit; what they do is the statement AnswersAreHandedOverAndWritten.
-/

open Sys2Proof Sys2Proof.Machine

/-! ## The step, reset and the invariants -/

/-- The step takes the command at the front of the queue and runs it with the rest of the queue. -/
def Obligations.StepRunsTheFrontCommand : Prop :=
  ∀ (c : Instr) (rest : List Instr) (s : State), s.pending = c :: rest →
    step s = exec c { s with pending := rest }

/-- With no command waiting the step runs the command the state makes due; with nothing due one microsecond passes.
That is the model's choice: log entry 1. The microsecond (R7, R66, R97, R98, R99): the scheduler time moves by one,
and while the blocks run 1000 of them are one millisecond. Each millisecond moves the millisecond time, and either the
phase and the second of a clock that is set, marking the minute boundary it reaches, or the count of one that is not,
marking its unset minute; the fields pass a marked boundary in the step that gives its event: log entry 16. A
millisecond time that is a whole second makes the aging of addresses and flows and the beacon due (R42, R51, R130).
Nothing else changes. -/
def Obligations.IdleStepRunsWhatIsDueOrPassesTime : Prop :=
  ∀ s : State, s.pending = [] →
    (∀ i, s.nextInternal = some i → step s = exec i s) ∧
    (s.nextInternal = none → step s = .next s.tick) ∧
    (s.sck.counting = false → s.tick = { s with sck := { s.sck with us := s.sck.us + 1 } }) ∧
    (s.sck.counting = true → s.sck.usPart + 1 < 1000 →
      s.tick = { s with sck := { s.sck with us := s.sck.us + 1, usPart := s.sck.usPart + 1 } }) ∧
    (s.sck.counting = true → 1000 ≤ s.sck.usPart + 1 →
      let c := s.sck
      let second := c.set = true ∧ 1000 ≤ c.phase + 1
      let whole := decide ((c.ms + 1).toNat % 1000 = 0)
      s.tick = { s with
        sck := { c with
          us := c.us + 1, usPart := 0, ms := c.ms + 1
          phase := if second then 0 else if c.set then c.phase + 1 else c.phase
          second := if second ∧ c.second < 59 then c.second + 1 else c.second
          minuteDue := c.minuteDue || decide (second ∧ 59 ≤ c.second)
          unsetCount := if c.set = false ∧ c.unsetCount + 1 < 60000 then c.unsetCount + 1 else c.unsetCount
          unsetDue := c.unsetDue || decide (c.set = false ∧ 60000 ≤ c.unsetCount + 1) }
        frp := { s.frp with agingDue := s.frp.agingDue || whole }
        flc := { s.flc with agingDue := s.flc.agingDue || whole }
        mlc := { s.mlc with beaconDue := s.mlc.beaconDue || whole } })

/-- Every command has a next state, and no command touches the queue of commands. -/
def Obligations.EveryCommandCompletesAndLeavesTheQueue : Prop :=
  ∀ (c : Instr) (s : State), ∃ t, exec c s = .next t ∧ t.pending = s.pending

/-- After power-on every register reads its value of Table 1-1, the engine is OFF with fault NONE, the exchange is
empty, every port is disabled and every record is FREE; the invariants hold. That the area in use is empty before the
first RUN, and the values of the model's own fields, are the model's choice: log entry 20. -/
def Obligations.ResetIsThePowerOnStateAndMeetsTheInvariants : Prop :=
  (∀ k : Fin 8, State.reset.readRegister k = if k = 0 then 0x07400001#32 else 0) ∧
  State.reset.exu.engine = .off ∧ State.reset.exu.fault = .none ∧ State.reset.exu.area = ⟨0, 0⟩ ∧
  State.reset.exu.inFlight = [] ∧ State.reset.exu.answers = [] ∧ State.reset.exu.hold = [] ∧
  State.reset.exu.bus = none ∧ State.reset.exu.busWait = [] ∧ State.reset.exu.readPos = none ∧
  (∀ p : PortId, (State.reset.port p).enabled = false ∧ (State.reset.port p).tx = .notReady) ∧
  (∀ i : StaIx, State.reset.sta i = Station.free) ∧
  (∀ p : ProfIx, (State.reset.profile p).inUse = false) ∧
  State.reset.frp.free = 6144 ∧ State.reset.sck.set = false ∧ State.reset.ups.state = .idle ∧ State.reset.pending = [] ∧
  PoolInv State.reset ∧ ListsInv State.reset ∧ HoldInv State.reset ∧ BucketInv State.reset ∧ RoundInv State.reset ∧
  MacInv State.reset

/-- Every step keeps the conservation of the frame buffer pool. -/
def Obligations.EveryStepConservesTheBufferPool : Prop :=
  ∀ s t : State, PoolInv s → step s = .next t → PoolInv t

/-- Every step keeps the lists of the part within their sizes: 16 orders in flight (R12), 32 waiting reports (R21), 64
held frames of a station (R38), 8 listen entries (R139), 32 serves (R163). -/
def Obligations.EveryStepKeepsTheListBounds : Prop :=
  ∀ s t : State, ListsInv s → step s = .next t → ListsInv t

/-- Every step keeps the rule that no move is under way during an install hold. -/
def Obligations.EveryStepKeepsTheInstallHoldQuiet : Prop :=
  ∀ s t : State, HoldInv s → step s = .next t → HoldInv t

/-- Every step keeps every GAME bucket within -65535 .. depth (R76), and every deficit within the class's quantum +
17383, 0 while its queue is empty (R78), with what that rests on: no cost above 17384, every quantum at least 1. -/
def Obligations.EveryStepKeepsBucketsAndDeficitsInRange : Prop :=
  (∀ s t : State, BucketInv s → step s = .next t → BucketInv t) ∧
  (∀ s t : State, RoundInv s → step s = .next t → RoundInv t)

/-- Every step keeps every MAC in at most one place of the non-FREE station records and the address table (R41): in no
two such records, no two address entries, and no record and entry. -/
def Obligations.EveryStepKeepsMacsUnique : Prop :=
  ∀ s t : State, MacInv s → step s = .next t → MacInv t

/-! ## The exchange (chapter 1) -/

/-- Power-on gives the power-on state. A RESET is ignored while RESETTING; else the engine is RESETTING, EVENTS is 0,
the exchange is empty, the area registers and EVENT_MASK stay, no access waits, and each block but the Schedule
Clock's scheduler time and the flash operation under way is as after power-on; the buffers of frames on a link stay
taken. The reset ends when the flash is idle or 500 ms have passed. That frames on a link at the reset are only
counted until their completions, that the model's own count of triggers taken stays, that a flash operation still
under way at the end of the reset is forgotten, that a state or FILLED write on the bus at the reset sets no event
when it completes, and that the fault cause is NONE from the RESET on and not only once the engine is OFF, are the
model's choices: log entries 12, 15, 18 and 32. -/
def Obligations.PowerOnAndResetEmptyThePart : Prop :=
  (∀ s, exec .powerOn s = .next { State.reset with pending := s.pending }) ∧
  (∀ s, s.exu.engine = .resetting → exec .reset s = .next s) ∧
  (∀ s : State, s.exu.engine ≠ .resetting →
    let port := fun p : PortId => { Port.reset p with
      tx := if (s.port p).tx = .ready then .ready else .notReady
      ghosts := (s.port p).ghosts + if (s.port p).onLink.isSome then 1 else 0 }
    let ports : List PortId := [.localPort, .wan, .radioA, .radioB, .mesh]
    ∃ t, exec .reset s = .next t ∧ t = { State.reset with
      pending := s.pending
      exu := { Exu.reset with
        areaLow := s.exu.areaLow, areaHigh := s.exu.areaHigh, areaSize := s.exu.areaSize, eventMask := s.exu.eventMask
        msi := s.exu.msi, engine := .resetting, resetUntil := s.sck.us + 500000#64
        bus := s.exu.bus.map fun b => ({ b.1 with owner := .nobody }, b.2) }
      frp := { Frp.reset with ports := t.frp.ports, free := 6144 - (ports.map fun p => (port p).ghosts).sum }
      sck := { Sck.reset with us := s.sck.us }
      pfe := { Pfe.reset with taken := s.pfe.taken }
      fls := { Fls.reset with
        op := s.fls.op.map fun b => ({ b.1 with owner := .nobody }, b.2), stalled := s.fls.stalled } } ∧
    (∀ p, t.port p = port p)) ∧
  (Frp.reset.agingDue = false ∧ (∀ k, Frp.reset.addresses.get k = none) ∧ Fls.reset.boot = .off ∧
    Fls.reset.waiting = [] ∧ Fls.reset.readWork = none ∧ Fls.reset.activeManifest = none ∧
    Fls.reset.slot = SlotRecord.default) ∧
  (∀ s, s.exu.engine = .resetting →
    (s.fls.op = none ∧ s.fls.stalled = false) ∨ s.exu.resetUntil.toNat ≤ s.sck.us.toNat →
    exec .resetDone s = .next (State.setEvent { s with
      exu := { s.exu with engine := .off, fault := .none }
      fls := { s.fls with op := none, stalled := false } } .resetDone))

/-- A write narrower than 32 bits, or not aligned, changes nothing. A 32-bit write changes its register as Table 1-1
and R2, R3 and R22 say, and nothing else; a write to IDENT or STATUS changes nothing. An event sets its bit and sends
the interrupt message exactly when the bit was 0 and its mask bit is 1 (R22); the events stand at bits 0 to 5 (R170).
A read (R1, R4, R170) gives the identity, the stored area registers, 0 for CONTROL, EVENTS and EVENT_MASK as they
stand, and for STATUS the engine state in bits 1..0, the orders in flight in 8..4, the hold depth in 15..10 and the
fault cause in 18..16, with every other bit 0; a narrower read gives the addressed bytes, byte 0 the least
significant, the model's choice: log entry 9. -/
def Obligations.RegistersAndEventsFollowTheirTables : Prop :=
  (∀ s v, exec (.eventsWrite v) s = .next { s with exu := { s.exu with events := s.exu.events &&& ~~~v } }) ∧
  (∀ s v, exec (.areaSizeWrite v) s = .next { s with exu := { s.exu with
    areaSize := BitVec.ofNat 32 (min 16777216 (max 65536 (v.toNat / 65536 * 65536))) } }) ∧
  (∀ s off w v, w ≠ .word ∨ off.toNat % 4 ≠ 0 → exec (.registerWrite off w v) s = .next s) ∧
  (∀ s v, exec (.registerWrite 0x04 .word v) s =
    .next { s with exu := { s.exu with areaLow := v &&& 0xFFFF0000#32 } }) ∧
  (∀ s v, exec (.registerWrite 0x08 .word v) s = .next { s with exu := { s.exu with areaHigh := v } }) ∧
  (∀ s v, exec (.registerWrite 0x0C .word v) s = exec (.areaSizeWrite v) s) ∧
  (∀ s v, exec (.registerWrite 0x10 .word v) s =
    if v.getLsbD 1 then exec .reset s else if v.getLsbD 0 then exec (.run (v.getLsbD 2)) s
    else if v.getLsbD 2 then exec .nudge s else .next s) ∧
  (∀ s v, exec (.registerWrite 0x18 .word v) s = exec (.eventsWrite v) s) ∧
  (∀ s v, exec (.registerWrite 0x1C .word v) s =
    .next { s with exu := { s.exu with eventMask := v &&& 0x3F#32 } }) ∧
  (∀ s v, exec (.registerWrite 0x00 .word v) s = .next s ∧ exec (.registerWrite 0x14 .word v) s = .next s) ∧
  (∀ (s : State) (e f : Event),
     (s.setEvent e).event f = (s.event f || decide (f = e)) ∧
     (s.setEvent e).exu.msi = s.exu.msi + (if s.event e = false ∧ s.exu.eventMask.getLsbD e.bit.val = true then 1 else 0) ∧
     s.setEvent e = { s with exu := { s.exu with events := (s.setEvent e).exu.events, msi := (s.setEvent e).exu.msi } }) ∧
  (∀ s : State, s.readRegister 0 = 0x07400001#32 ∧ s.readRegister 1 = s.exu.areaLow ∧
     s.readRegister 2 = s.exu.areaHigh ∧ s.readRegister 3 = s.exu.areaSize ∧ s.readRegister 4 = 0 ∧
     s.readRegister 6 = s.exu.events ∧ s.readRegister 7 = s.exu.eventMask) ∧
  (∀ s : State, s.exu.inFlight.length ≤ 16 → s.exu.hold.length ≤ 32 →
     let w := (s.readRegister 5).toNat
     w % 4 = (match s.exu.engine with
       | .off => 0
       | .resetting => 1
       | .running => 2
       | .halted => 3) ∧
     w / 4 % 4 = 0 ∧ w / 16 % 32 = s.exu.inFlight.length ∧ w / 512 % 2 = 0 ∧ w / 1024 % 64 = s.exu.hold.length ∧
     w / 65536 % 8 = (match s.exu.fault with
       | .none => 0
       | .headerInvalid => 1
       | .chainPointerInvalid => 2
       | .blockInvalid => 3
       | .readError => 4
       | .writeError => 5) ∧
     w / 524288 = 0) ∧
  (∀ (s : State) (k : Fin 8) (off : BitVec 5), off.toNat / 4 = k.val →
     (s.readByte off).toNat = (s.readRegister k).toNat / 256 ^ (off.toNat % 4) % 256) ∧
  ([Event.answered, .reported, .backlog, .reportLoss, .areaFault, .resetDone].map (fun e => e.bit.val) =
    [0, 1, 2, 3, 4, 5] ∧
    ∀ (s : State) (e : Event), s.event e = s.exu.events.getLsbD e.bit.val)

/-- A RUN in OFF starts the blocks, takes the area in use from the registers and requests the read of the 64 header
bytes; one in HALTED orphans every order in flight and does the same; in RUNNING it acts as its NUDGE bit; in
RESETTING it is ignored. A second RUN before the header is in has no effect: the model's choice, log entry 6. The
header read of a RUN ends. A valid header (R6) makes the engine RUNNING with fault NONE, cursor and report position at
their anchors, the read position cleared, the scan timer set from the header and a look caused by the RUN's NUDGE bit;
reports waiting then stay until the first look or an earlier join (Table 1-5).
Any other end halts: from OFF with HEADER_INVALID, in HALTED with the fault cause it had (log entry 7). -/
def Obligations.RunReadsTheHeaderAndStartsTheEngine : Prop :=
  (∀ s n, s.exu.runWait = none → s.exu.engine = .off → exec (.run n) s = .next (State.request { s with
    exu := { s.exu with
      area := ⟨s.exu.areaHigh ++ s.exu.areaLow, s.exu.areaSize.toNat⟩, runWait := some n, lookPending := false }
    sck := { s.sck with ms := 0, usPart := 0, counting := true, unsetCount := 0 }
    hoc := { s.hoc with checkAt := BitVec.ofNat 32 s.hoc.roaming.checkInterval }
    fls := { s.fls with boot := .waitStatus (s.sck.us + 500000#64) } }
    [⟨.order, false, s.exu.areaHigh ++ s.exu.areaLow, 64, [], .header⟩])) ∧
  (∀ s n, s.exu.runWait = none → s.exu.engine = .halted → exec (.run n) s = .next (State.request { s with
    exu := { s.exu with
      area := ⟨s.exu.areaHigh ++ s.exu.areaLow, s.exu.areaSize.toNat⟩, runWait := some n, lookPending := false
      inFlight := s.exu.inFlight.map fun o => { o with orphaned := true } } }
    [⟨.order, false, s.exu.areaHigh ++ s.exu.areaLow, 64, [], .header⟩])) ∧
  (∀ s n, s.exu.runWait = none → s.exu.engine = .running →
    exec (.run n) s = if n then exec .nudge s else .next s) ∧
  (∀ s n, s.exu.engine = .resetting ∨ s.exu.runWait.isSome = true → exec (.run n) s = .next s) ∧
  (∀ (s : State) (a : Access) (since : Us) (ok : Bool) (data : List Byte) (n : Bool),
     s.exu.bus = some (a, since) → a.owner = .header → a.write = false → a.len = 64 → data.length = 64 →
     s.exu.runWait = some n →
     let orders := leAt data 4 4
     let reports := leAt data 8 4
     let period := min 1000 (leAt data 12 2)
     let valid := ok = true ∧ s.exu.area.size ≠ 0 ∧ leAt data 0 2 = 1 ∧
       (orders = 0 ∨ (orders % 64 = 0 ∧ orders + 16 ≤ s.exu.area.size)) ∧
       (reports = 0 ∨ (reports % 64 = 0 ∧ reports + 64 ≤ s.exu.area.size))
     (valid → ∃ t, exec (.busAccessComplete ok data) s = .next t ∧ t = { s with exu := t.exu } ∧
       t.exu.engine = .running ∧ t.exu.fault = .none ∧ t.exu.cursor = .anchor ∧ t.exu.reportPos = .anchor ∧
       t.exu.readPos = none ∧ t.exu.scanPeriod = period ∧
       t.exu.scanAt = (if period = 0 then none else some (s.sck.ms + BitVec.ofNat 32 period)) ∧
       t.exu.look = (if n then .due else .idle) ∧ t.exu.place = .idle ∧ t.exu.blocked = false ∧ t.exu.runWait = none ∧
       t.exu.inFlight = s.exu.inFlight ∧ t.exu.hold = s.exu.hold ∧ t.exu.events = s.exu.events) ∧
     (¬valid → s.exu.engine = .off → ∃ t, exec (.busAccessComplete ok data) s = .next t ∧ t = { s with exu := t.exu } ∧
       t.exu.engine = .halted ∧ t.exu.fault = .headerInvalid ∧ t.event .areaFault = true ∧
       t.exu.inFlight = s.exu.inFlight ∧ t.exu.reportPos = s.exu.reportPos ∧ t.exu.hold = s.exu.hold) ∧
     (¬valid → s.exu.engine = .halted → ∃ t, exec (.busAccessComplete ok data) s = .next t ∧ t = { s with exu := t.exu } ∧
       t.exu.engine = .halted ∧ t.exu.fault = s.exu.fault ∧ t.event .areaFault = true ∧
       t.exu.inFlight = s.exu.inFlight ∧ t.exu.reportPos = s.exu.reportPos ∧ t.exu.hold = s.exu.hold))

/-- A cause of a look (R9): in RUNNING it begins a look, or with one under way sets the look-pending flag; in any
other engine state a NUDGE is ignored. The expiry of the scan timer is such a cause and moves the next expiry one
period on. A look that is due (R9, R10): with reports waiting it drains them first; with 16 orders in flight it ends
without reading, and a pending look begins; else it reads the 4 bytes of the chain pointer at the cursor. The look's
own reads (R10 steps 2 to 6): a pointer of 0, or a next block that is not READY, ends the look; a pointer or a length
out of place halts the engine with CHAIN_POINTER_INVALID or BLOCK_INVALID; else the block's 16 bytes, then the rest of
it in pieces, are read, and with the whole block in TAKEN is to be written to its state byte. A look that has ended
takes nothing from a read still on the bus. The completion of a TAKEN write completes the take (R10 step 7, R11, R12,
R13, R19): the order joins the list with its kind, its parameters, the area in use and its predecessor, the cursor
moves to its block, an ANSWERED block the cursor leaves is to be written RELEASED, and a look is caused. A
CANCEL_STAGING acts as it joins (R161). That the drain of a look joins a placement already under way and ends with its
failure is the model's choice: log entry 35. -/
def Obligations.LooksReadTheChainAndTakeOrders : Prop :=
  let pointer := fun s : State => State.request { s with exu := { s.exu with look := .pointer } }
    [⟨.order, false, s.exu.area.base + BitVec.ofNat 64 (match s.exu.cursor with
      | .block c _ => c
      | .anchor | .nowhere => 4), 4, [], .lookPointer⟩]
  let ends := fun s : State => { s with exu := { s.exu with
    look := if s.exu.lookPending then .due else .idle, lookPending := false } }
  (∀ s, s.exu.engine = .running → s.exu.look = .idle →
    exec .nudge s = .next { s with exu := { s.exu with look := .due } }) ∧
  (∀ s, s.exu.engine = .running → s.exu.look ≠ .idle →
    exec .nudge s = .next { s with exu := { s.exu with lookPending := true } }) ∧
  (∀ s, s.exu.engine ≠ .running → exec .nudge s = .next s) ∧
  (∀ s t, s.exu.scanAt = some t → s.sck.counting = true → (s.sck.ms - t).toNat < 2 ^ 31 →
    exec .scanTimerExpiry s =
      exec .nudge { s with exu := { s.exu with scanAt := some (t + BitVec.ofNat 32 s.exu.scanPeriod) } }) ∧
  (∀ s : State, s.exu.engine = .running → s.exu.look = .due →
     (s.exu.hold ≠ [] → exec .look s = .next { s with exu := { s.exu with
       look := .draining, place := if s.exu.place = .idle then .due else s.exu.place } }) ∧
     (s.exu.hold = [] → 16 ≤ s.exu.inFlight.length → exec .look s = .next (ends s)) ∧
     (s.exu.hold = [] → s.exu.inFlight.length < 16 → exec .look s = .next (pointer s))) ∧
  (∀ s : State,
     (s.exu.look ≠ .draining → s.drainEnd = s) ∧
     (s.exu.look = .draining → 16 ≤ s.exu.inFlight.length → s.drainEnd = ends s) ∧
     (s.exu.look = .draining → s.exu.inFlight.length < 16 → s.drainEnd = pointer s)) ∧
  (∀ (s : State) (a : Access) (since : Us) (data : List Byte),
     s.exu.bus = some (a, since) → a.write = false → data.length = a.len → s.exu.engine = .running →
     let size := s.exu.area.size
     let answers := fun t : State => exec (.busAccessComplete true data) s = .next t.busFree
     let halts := fun c => answers (s.halt c)
     let goesOn := fun (look : Look) (l : List Access) => answers (State.request { s with exu := { s.exu with look := look } } l)
     (a.owner = .lookPointer → s.exu.look = .pointer →
       let p := leAt data 0 4
       (p = 0 → answers (ends s)) ∧
       (p ≠ 0 → p % 64 ≠ 0 ∨ size < p + 16 → halts .chainPointerInvalid) ∧
       (p ≠ 0 → p % 64 = 0 → p + 16 ≤ size →
         goesOn (.head p) [⟨.order, false, s.exu.area.base + BitVec.ofNat 64 p, 16, [], .lookHead⟩])) ∧
     (∀ p, a.owner = .lookHead → s.exu.look = .head p →
       let len := leAt data 6 2
       let ready := byteAt data 4 = 1
       let bad := len < 64 ∨ 4096 < len ∨ len % 64 ≠ 0 ∨ size < p + len
       (¬ready → answers (ends s)) ∧
       (ready → bad → halts .blockInvalid) ∧
       (ready → ¬bad → goesOn (.rest p len data) (readAccesses .order s.exu.area (p + 16) (len - 16) .lookRest))) ∧
     (∀ p len got, a.owner = .lookRest → s.exu.look = .rest p len got →
       (got.length + data.length < len → answers { s with exu := { s.exu with look := .rest p len (got ++ data) } }) ∧
       (len ≤ got.length + data.length → goesOn (.taking p (got ++ data))
         [⟨.order, true, s.exu.area.base + BitVec.ofNat 64 (p + 4), 1, [2], .taken⟩]))) ∧
  (∀ (s : State) (a : Access) (since : Us) (data : List Byte), s.exu.bus = some (a, since) → s.exu.look = .idle →
     a.owner = .lookPointer ∨ a.owner = .lookHead ∨ a.owner = .lookRest ∨ a.owner = .taken →
     exec (.busAccessComplete true data) s = .next s.busFree) ∧
  (∀ (s : State) (a : Access) (since : Us) (p : Nat) (b : List Byte),
     s.exu.bus = some (a, since) → a.owner = .taken → s.exu.look = .taking p b →
     let o : Order := ⟨s.exu.nextOrder, p, byteAt b 5, b.drop 48, ownerOf (byteAt b 5), s.exu.area, s.exu.lastTaken,
       false, .fresh, false⟩
     let t := State.request { s with exu := { s.exu with
         inFlight := s.exu.inFlight ++ [o], nextOrder := s.exu.nextOrder + 1
         lastTaken := if byteAt b 5 = 0 then s.exu.lastTaken else some s.exu.nextOrder
         cursor := .block p false, look := .due, lookPending := false } }
       (match s.exu.cursor with
         | .block c true => if c = p then [] else
             [⟨.answer, true, s.exu.area.base + BitVec.ofNat 64 (c + 4), 1, [4], .nobody⟩]
         | _ => [])
     let u := (if byteAt b 5 = 0x83 then t.cancelJoins s.exu.nextOrder else t).busFree
     exec .takeComplete s = .next u ∧ ∀ data, exec (.busAccessComplete true data) s = .next u)

/-- The arbiter (R23) starts the oldest waiting access of the highest class present: whatever waits before the access
chosen is of a lower class, whatever waits after it of no higher one, and something is chosen whenever something waits.
Accesses requested while the port is taken wait behind the others; on a free port, and when the port becomes free, the
chosen one is started and the others wait. No step leaves the port free while an access waits. A transfer is made in
consecutive pieces of at most 256 bytes; that all of them are requested at once is the model's choice: log entry 25. -/
def Obligations.ArbiterStartsTheOldestOfTheHighestClass : Prop :=
  let rank : BusClass → Nat := fun
    | .answer => 1 | .report => 2 | .order => 3 | .bulk => 4
  (∀ l : List Access, l ≠ [] → (nextAccess l).isSome = true) ∧
  (∀ l a rest, nextAccess l = some (a, rest) → ∃ before after, l = before ++ a :: after ∧ rest = before ++ after ∧
    (∀ x ∈ before, rank a.cls < rank x.cls) ∧ ∀ x ∈ after, rank a.cls ≤ rank x.cls) ∧
  (∀ (s : State) (l : List Access),
    (s.exu.bus.isSome = true → s.request l = { s with exu := { s.exu with busWait := s.exu.busWait ++ l } }) ∧
    (∀ a rest, s.exu.bus = none → nextAccess (s.exu.busWait ++ l) = some (a, rest) →
      s.request l = State.startAccess { s with exu := { s.exu with busWait := rest } } a)) ∧
  (∀ s : State,
    (s.exu.busWait = [] → s.busFree = { s with exu := { s.exu with bus := none } }) ∧
    (∀ a rest, nextAccess s.exu.busWait = some (a, rest) →
      s.busFree = State.startAccess { s with exu := { s.exu with bus := none, busWait := rest } } a)) ∧
  (∀ (s : State) (a : Access), (∀ offset, a.owner ≠ .answerState offset) →
    s.startAccess a = { s with exu := { s.exu with bus := some (a, s.sck.us) } }) ∧
  (∀ s t : State, (s.exu.bus = none → s.exu.busWait = []) → step s = .next t → t.exu.bus = none → t.exu.busWait = []) ∧
  (∀ (cls : BusClass) (area : Area) (offset len : Nat) (w : BusOwner),
    let at_ := fun k => area.base + BitVec.ofNat 64 (offset + 256 * k)
    readAccesses cls area offset len w = (List.range ((len + 255) / 256)).map fun k =>
      ⟨cls, false, at_ k, min 256 (len - 256 * k), [], w⟩) ∧
  (∀ (cls : BusClass) (area : Area) (offset : Nat) (data : List Byte) (w : BusOwner),
    let at_ := fun k => area.base + BitVec.ofNat 64 (offset + 256 * k)
    writeAccesses cls area offset data w = (List.range ((data.length + 255) / 256)).map fun k =>
      ⟨cls, true, at_ k, min 256 (data.length - 256 * k), (data.drop (256 * k)).take 256, w⟩)

/-- The owning block ends an order: the entry is marked ended and one answer joins the answers handed over; no other
entry and no other part of the machine changes (R14, R15). The answer handed over first (R14): its entry leaves the
list, a list that falls from 16 to 15 causes a look, and in RUNNING, unless the order is orphaned, the 32 bytes of the
answer area and then the state byte are to be written; else nothing is. The state byte is 3 (ANSWERED) when the cursor
rests on the block as the write is started and 4 (RELEASED) when it does not, and its completion sets EVENTS.ANSWERED.
That the entry leaves the list in the step that takes its answer, and not where the owning block ends the order, is
the model's choice: log entry 5. -/
def Obligations.AnswersAreHandedOverAndWritten : Prop :=
  (∀ (s : State) (o : Order) (st : Status) (detail : Byte) (results : List Byte),
     s.finish o.id st detail results = { s with exu := { s.exu with
       inFlight := s.exu.inFlight.map fun x => if x.id = o.id then { x with ended := true } else x
       answers := s.exu.answers ++ [⟨o.id, st, detail, results⟩] } } ∧
     s.accept o results = s.finish o.id .ok 0 results ∧ s.refuse o st = s.finish o.id st 0 []) ∧
  (∀ (s : State) (a : Answer) (rest : List Answer) (o : Order),
    s.exu.answers = a :: rest → (s.exu.inFlight.find? fun x => x.id == a.order) = some o →
    let left := s.exu.inFlight.filter fun x => x.id != o.id
    let t := { s with exu := { s.exu with answers := rest, inFlight := left } }
    let u := if s.exu.inFlight.length = 16 ∧ left.length = 15 then t.causeLook else t
    exec .answer s = .next (if o.orphaned = true ∨ s.exu.engine ≠ .running then u
      else u.request
        [⟨.answer, true, s.exu.area.base + BitVec.ofNat 64 (o.offset + 16), 32,
            [BitVec.ofNat 8 a.status.code, a.detail, 0, 0] ++ pad 28 a.results, .answerArea⟩,
          ⟨.answer, true, s.exu.area.base + BitVec.ofNat 64 (o.offset + 4), 1, [], .answerState o.offset⟩])) ∧
  (∀ (s : State) (a : Access) (offset : Nat), a.owner = .answerState offset →
    (∀ r, s.exu.cursor = .block offset r → s.startAccess a =
      { s with exu := { s.exu with cursor := .block offset true, bus := some ({ a with data := [3] }, s.sck.us) } }) ∧
    ((∀ r, s.exu.cursor ≠ .block offset r) → s.startAccess a =
      { s with exu := { s.exu with bus := some ({ a with data := [4] }, s.sck.us) } })) ∧
  (∀ (s : State) (a : Access) (since : Us) (offset : Nat) (data : List Byte),
    s.exu.bus = some (a, since) → a.owner = .answerState offset →
    exec (.busAccessComplete true data) s = .next (s.setEvent .answered).busFree)

/-- A report reaches the hold queue (R21): it replaces a waiting report of its coalescing kind and subject in place,
the first but for a head whose writes have begun; else it is lost with REPORT_LOSS when 32 wait; else it joins the tail. A join
or replacement sets BACKLOG unless reports are being placed, and a join then starts a placement when none is under
way. A placement (R20): it reads the chain pointer of the position block, then the state of the block it names, then
writes the head report's 59 bytes and FILLED; it fails on a pointer of 0 and on a block that is not EMPTY, and a
pointer out of place halts the engine. A failed placement leaves the report at the head, is marked blocked with
BACKLOG set, and ends the drain a look waits for. When FILLED has been written the report leaves the hold queue, the
position moves to the block, placement is unblocked, REPORTED is set and the next report's placement, if one waits, is
due. The kinds that coalesce (Table 1-4) are PROFILE_STATE, RULE_HIT, PEER_CHANGE and FETCH_STALLED, and no other. That
the head is protected once its writes are requested is the model's choice: log entry 25. -/
def Obligations.ReportsAreHeldAndPlaced : Prop :=
  (∀ k : ReportKind, k.coalesces = true ↔
    k = .profileState ∨ k = .ruleHit ∨ k = .peerChange ∨ k = .fetchStalled) ∧
  (∀ (s : State) (r : Report) (rest : List Report), s.exu.arrivals = r :: rest →
     let t := { s with exu := { s.exu with arrivals := rest } }
     let same : Report → Prop := fun x => r.kind.coalesces = true ∧ x.kind = r.kind ∧ x.subject = r.subject
     let placing := s.exu.engine = .running ∧ s.exu.blocked = false
     let begun := match s.exu.place with
       | .body _ | .filled _ => True
       | _ => False
     (∀ before x after, s.exu.hold = before ++ x :: after → same x → ¬(before = [] ∧ begun) →
       (∀ ahead y behind, before = ahead ++ y :: behind → same y → ahead = [] ∧ begun) →
       let u := { t with exu := { t.exu with hold := before ++ r :: after } }
       (placing → exec .reportArrival s = .next u) ∧ (¬placing → exec .reportArrival s = .next (u.setEvent .backlog))) ∧
     ((∀ before x after, s.exu.hold = before ++ x :: after → same x → before = [] ∧ begun) →
       (32 ≤ s.exu.hold.length → exec .reportArrival s = .next (t.setEvent .reportLoss)) ∧
       (s.exu.hold.length < 32 →
         let u := { t with exu := { t.exu with hold := s.exu.hold ++ [r] } }
         (placing → exec .reportArrival s = .next { u with exu := { u.exu with
           place := if s.exu.place = .idle then .due else s.exu.place } }) ∧
         (¬placing → exec .reportArrival s = .next (u.setEvent .backlog))))) ∧
  (∀ s : State, s.exu.engine = .running → s.exu.place = .due → exec .placement s =
    .next (State.request { s with exu := { s.exu with place := .pointer } }
      [⟨.report, false, s.exu.area.base + BitVec.ofNat 64 (match s.exu.reportPos with
        | .block c => c
        | .anchor | .nowhere => 8), 4, [], .placePointer⟩])) ∧
  (∀ (s : State) (a : Access) (since : Us) (data : List Byte),
    s.exu.bus = some (a, since) → data.length = a.len → s.exu.engine = .running →
    let answers := fun t : State => exec (.busAccessComplete true data) s = .next t.busFree
    let goesOn := fun (place : Place) (l : List Access) =>
      answers (State.request { s with exu := { s.exu with place := place } } l)
    let fails := answers (State.drainEnd (State.setEvent { s with exu := { s.exu with place := .idle, blocked := true } } .backlog))
    let at_ := fun n => s.exu.area.base + BitVec.ofNat 64 n
    (a.owner = .placePointer → a.write = false → s.exu.place = .pointer →
      let p := leAt data 0 4
      (p = 0 → fails) ∧
      (p ≠ 0 → p % 64 ≠ 0 ∨ s.exu.area.size < p + 64 → answers (s.halt .chainPointerInvalid)) ∧
      (p ≠ 0 → p % 64 = 0 → p + 64 ≤ s.exu.area.size →
        goesOn (.state p) [⟨.report, false, at_ (p + 4), 1, [], .placeState⟩])) ∧
    (∀ p r rest, a.owner = .placeState → a.write = false → s.exu.place = .state p → s.exu.hold = r :: rest →
      (byteAt data 0 ≠ 0 → fails) ∧
      (byteAt data 0 = 0 → goesOn (.body p)
        [⟨.report, true, at_ (p + 5), 59, [BitVec.ofNat 8 r.kind.code] ++ le 2 r.subject ++ le 4 r.time.toNat ++ le 4 0
            ++ pad 48 r.body, .placeBody⟩,
          ⟨.report, true, at_ (p + 4), 1, [1], .placeFilled⟩])) ∧
    (∀ p, a.owner = .placeBody → s.exu.place = .body p →
      answers { s with exu := { s.exu with place := .filled p } }) ∧
    (∀ p r rest, a.owner = .placeFilled → s.exu.place = .filled p → s.exu.hold = r :: rest →
      let t := State.setEvent { s with exu := { s.exu with
        reportPos := .block p, hold := rest, blocked := false, place := if rest = [] then .idle else .due } } .reported
      answers (if rest = [] then t.drainEnd else t)))

/-- An access that fails, or that has not completed 2 ms after its start, is an area fault (R23, R24): in RUNNING the
engine is HALTED with READ_ERROR or WRITE_ERROR and AREA_FAULT, and the look and the placement end; in HALTED only
AREA_FAULT is set. An access within its 2 ms goes on. The failure of an order's bulk transfer (R16) also ends the
transfer: its waiting pieces go, its owning block is free of it and the order is ended AREA_ERROR; the
assembly buffer it read into is free, or taken by the STAGE_CHUNK that waits for one. The failure of the
header read is no such fault but an invalid header (R6): from OFF the engine is HALTED with HEADER_INVALID, and in
HALTED it stays so with the cause it had. These are the model's choices: that a halt discards the waiting accesses of
looks, placements and answers, only those of bulk transfers staying, and that any failed access but a header read is an
area fault: log entry 8; that an invalid header in HALTED keeps the first cause: log entry 7. -/
def Obligations.LateOrFailedAccessHaltsTheEngine : Prop :=
  ∀ (s : State) (a : Access) (since : Us) (data : List Byte), s.exu.bus = some (a, since) →
    let cause : FaultCause := if a.write then .writeError else .readError
    ((s.sck.us - since).toNat < 2000 → exec .busAccessTimeout s = .next s) ∧
    (2000 ≤ (s.sck.us - since).toNat →
      exec .busAccessTimeout s = exec (.busAccessComplete false data) s) ∧
    (a.owner ≠ .header → (∀ id, a.owner ≠ .bulk id) →
      (s.exu.engine = .running → exec (.busAccessComplete false data) s = .next (s.halt cause).busFree) ∧
      (s.exu.engine = .halted → exec (.busAccessComplete false data) s = .next (s.setEvent .areaFault).busFree)) ∧
    (∀ c : FaultCause, s.halt c = State.setEvent { s with exu := { s.exu with
      engine := .halted, fault := c, look := .idle, place := .idle, scanAt := none
      busWait := s.exu.busWait.filter fun x => x.cls == .bulk } } .areaFault) ∧
    (∀ id o, a.owner = .bulk id → s.orderOf id = some o →
      s.exu.engine = .running ∨ s.exu.engine = .halted →
      ∃ t, exec (.busAccessComplete false data) s = .next t ∧
        t.exu.engine = .halted ∧ t.exu.fault = (if s.exu.engine = .running then cause else s.exu.fault) ∧
        t.event .areaFault = true ∧ (∀ x ∈ t.exu.busWait, (x.owner ≠ .bulk id ∧ x ∈ s.exu.busWait) ∨
          ∃ i k n, o.owner = .ups ∧ s.ups.work = .stageWait i k n ∧ x.owner = .bulk i) ∧
        t.exu.hold = s.exu.hold ∧
        (o.owner = .exu ∨ o.owner = .ups ∨ o.owner = .fls →
          t.exu.answers = s.exu.answers ++ [⟨id, .areaError, 0, []⟩] ∧
          t.exu.inFlight = s.exu.inFlight.map fun x => if x.id = id then { x with ended := true } else x) ∧
        (o.owner = .exu → t.exu.tableWork = none) ∧ (o.owner = .fls → t.fls.readWork = none) ∧
        (o.owner ≠ .ups → t.ups = s.ups) ∧
        (o.owner = .ups →
          let reads : Option Buf → Prop := fun b => ∃ x, b = some x ∧ x.order = some id ∧ x.phase = .reading
          ((∀ b, ¬reads (s.ups.bufs.get b)) → t.ups = { s.ups with work := .idle }) ∧
          (∀ b, reads (s.ups.bufs.get b) → (∀ c < b, ¬reads (s.ups.bufs.get c)) →
            t.ups = { s.ups with
              work := .idle
              bufs := put s.ups.bufs b (match s.ups.work with
                | .stageWait i chunk _ => if s.ups.manifest.isSome = true ∧ (s.orderOf i).isSome = true then
                    some ⟨chunk, [], some i, .reading⟩ else none
                | _ => none) }))) ∧
    (a.owner = .header →
      let t := State.setEvent { s with exu := { s.exu with runWait := none } } .areaFault
      (s.exu.engine = .off → exec (.busAccessComplete false data) s =
        .next (State.busFree (State.halt { s with exu := { s.exu with runWait := none } } .headerInvalid))) ∧
      (s.exu.engine = .halted → exec (.busAccessComplete false data) s = .next t.busFree))

/-- An order of an undefined kind is answered UNKNOWN_ORDER (R13), NOP is answered OK without results, and ENGINE_INFO
with the identity, the time, the part's sizes and the slot and staging state (R17); nothing else changes. The order a
block works is the first of its orders in flight that it has not ended (R13). READ_TABLE (R18): a table code above 6,
a count of 0, a start outside the table or a capacity below one entry is BAD_PARAM, a destination that is not usable
AREA_ERROR; else the first entry's copy is taken and written, with the number of entries the span and the capacity
allow. READ_MORE (R19) goes on from the read position of its predecessor with what remains, or is answered SEQUENCE
and clears the read position. That the whole capacity of the buffer must be usable, and that ENGINE_INFO shows the
slot record's copy as it stands, also after a commit, are the model's choices: log entries 10 and 36. -/
def Obligations.ExchangeOrdersAreAnswered : Prop :=
  (∀ s o, s.headOrder .exu = some o → definedKind o.kind = false →
    exec .unknownOrder s = .next (s.refuse o .unknownOrder)) ∧
  (∀ s o, s.freshHead .exu 0x00 = some o → exec .nop s = .next (s.accept o [])) ∧
  (∀ s o, s.freshHead .exu 0x01 = some o → exec .engineInfo s = .next (s.accept o
    (le 4 0x07400001 ++ le 4 s.sck.ms.toNat ++ [128] ++ le 2 1024 ++ [64, 16, 7, 16, 32,
      BitVec.ofNat 8 s.fls.slot.active.code, flagByte s.fls.slot.trial, BitVec.ofNat 8 s.fls.slot.remaining]
      ++ le 4 s.activeId.toNat ++ [BitVec.ofNat 8 s.ups.state.code]))) ∧
  (∀ s o, s.freshHead .exu 0x02 = some o →
    let table := o.u8 0
    let start := o.u16 1
    let dest := o.u32 5
    let capacity := o.u32 9
    let bad := 6 < table ∨ o.u16 3 = 0 ∨ s.tableSize table ≤ start ∨ capacity < entrySize table
    let outside := dest < 64 ∨ o.area.size < dest + capacity
    let span := min (o.u16 3) (s.tableSize table - start)
    let n := min span (capacity / entrySize table)
    (bad → exec .readTable s = .next (s.refuse o .badParam)) ∧
    (¬bad → outside → exec .readTable s = .next (s.refuse o .areaError)) ∧
    (¬bad → ¬outside → exec .readTable s =
      let t := s.mark o.id .working
      .next (State.bulkWrite { t with exu := { t.exu with tableWork := some ⟨o.id, table, start, n - 1, 0, dest, span⟩ } }
        o dest (s.entryBytes table start)))) ∧
  (∀ s o, s.freshHead .exu 0x03 = some o →
    let dest := o.u32 0
    let capacity := o.u32 4
    (s.exu.readPos = none → exec .readMore s = .next (s.refuse o .sequence)) ∧
    (∀ r, s.exu.readPos = some r →
      let n := min r.remaining (capacity / entrySize r.table)
      (o.predecessor ≠ some r.order ∨ r.remaining = 0 → exec .readMore s =
        .next (State.refuse { s with exu := { s.exu with readPos := none } } o .sequence)) ∧
      (o.predecessor = some r.order → r.remaining ≠ 0 → capacity < entrySize r.table →
        exec .readMore s = .next (s.refuse o .badParam)) ∧
      (o.predecessor = some r.order → r.remaining ≠ 0 → entrySize r.table ≤ capacity →
        dest < 64 ∨ o.area.size < dest + capacity → exec .readMore s = .next (s.refuse o .areaError)) ∧
      (o.predecessor = some r.order → r.remaining ≠ 0 → entrySize r.table ≤ capacity →
        64 ≤ dest → dest + capacity ≤ o.area.size → exec .readMore s =
        let t := s.mark o.id .working
        .next (State.bulkWrite
          { t with exu := { t.exu with tableWork := some ⟨o.id, r.table, r.next, n - 1, 0, dest, r.remaining⟩ } }
          o dest (s.entryBytes r.table r.next))))) ∧
  (∀ (s : State) (b : BlockId) (o : Order),
    let works := fun x : Order => x.owner = b ∧ x.ended = false
    (s.headOrder b = some o ↔ ∃ before after, s.exu.inFlight = before ++ o :: after ∧ works o ∧
      ∀ x ∈ before, ¬works x) ∧
    ∀ k, s.freshHead b k = some o ↔ s.headOrder b = some o ∧ o.kind = k ∧ o.progress = .fresh) ∧
  (∀ (s : State) (id : Nat),
    (∀ o, s.orderOf id = some o ↔ ∃ before after, s.exu.inFlight = before ++ o :: after ∧ o.id = id ∧
      ∀ x ∈ before, x.id ≠ id) ∧
    ∀ p, s.mark id p = { s with exu := { s.exu with
      inFlight := s.exu.inFlight.map fun o => if o.id = id then { o with progress := p } else o } })

/-- The tables (R18): their sizes, the bytes of an entry, and what the copy of an entry holds (R167, R169, R170). A
STATIONS entry is Table 11-4, a PEERS entry the layout after it; FLOWS, RULES, PROFILES and ADDRESSES entries hold the
fields of R47, Table 3-1 with the hit count, Table 7-1 and R41 in order; a free position of FLOWS, PEERS or ADDRESSES
is 0xFF; the rest of an entry is 0. The codes are those of Table 11-1, the message kinds those of R171; an order kind
belongs to the block of its chapter, and one that is not defined to the Exchange Unit, which answers it (R13). A
number is packed least significant byte first, or most significant first where be and beAt stand, in a mesh message or
a frame; a byte beyond the end reads 0; a parameter is read by its width, a nonzero byte as a true flag (R167). The
place of the hit count, the byte order of a rule's address and the bytes of a free arm position and of a settle
exchange are the model's choices: log entry 29. -/
def Obligations.TableEntriesAndCodesAreLaidOut : Prop :=
  let fill := fun (n : Nat) (l : List Byte) => l ++ List.replicate (n - l.length) 0
  let bit := fun (b : Bool) (n : Nat) => if b then 2 ^ n else 0
  let b8 : Nat → Byte := fun n => BitVec.ofNat 8 n
  let index : Option Nat → Byte := fun n => match n with
    | some k => b8 k
    | none => 255
  (∀ s : State, s.tableSize 0 = 128 ∧ s.tableSize 1 = 1024 ∧ s.tableSize 2 = 64 ∧ s.tableSize 3 = 16 ∧
    s.tableSize 4 = 7 ∧ s.tableSize 5 = 256 ∧ s.tableSize 6 = s.ups.map.length) ∧
  (entrySize 0 = 64 ∧ entrySize 1 = 64 ∧ entrySize 2 = 64 ∧ entrySize 3 = 128 ∧ entrySize 4 = 32 ∧
    entrySize 5 = 16 ∧ entrySize 6 = 1) ∧
  (∀ (s : State) (i : StaIx), s.entryBytes 0 i.val =
    let r := s.sta i
    let entries := match r.query with
      | some q => q.entries
      | none => []
    let answered := entries.filter fun c => c.answered
    [b8 i.val, b8 r.state.code] ++ macBytes r.mac
      ++ [if r.radio = .a then 2 else 3, index (r.profile.map fun (p : ProfIx) => p.val)] ++ le 2 r.rate
      ++ le 2 (match r.signal with
        | some x => (x % 65536).toNat
        | none => 0x8000)
      ++ [b8 r.runOn, b8 r.requery] ++ le 4 r.nextQuery.toNat ++ le 2 r.used ++ le 2 r.bonus
      ++ le 4 (r.day.getD 0).toNat ++ le 4 r.bytes
      ++ [b8 r.gate.code, b8 (bit r.spent 0 + bit r.departed 1 + bit r.day.isSome 2 + bit r.lastGame.isSome 3
        + bit r.handoff.isSome 4 + bit r.query.isSome 5 + bit r.held.isSome 6 + bit r.forward.isSome 7)]
      ++ le 4 (r.lastGame.getD 0).toNat
      ++ (r.arms.toList.map fun a => match a with
        | some a => [a.group] ++ le 4 a.expiry.toNat
        | none => [255, 0, 0, 0, 0]).flatten
      ++ (match r.handoff with
        | some h => [b8 h.peer.val, b8 h.tries] ++ le 2 h.id.count.toNat
        | none => [index (r.forward.map fun (f : Forward) => f.peer.val), 0, 0, 0])
      ++ [b8 (entries.length + 16 * answered.length), b8 (r.held.getD []).length]) ∧
  (∀ (s : State) (k : Fin 256) (w : Fin 4), s.entryBytes 1 (4 * k.val + w.val) =
    match (s.flc.sets.get k).get w with
    | some f => fill 64 (f.key.bytes ++ [index (f.station.map fun (i : StaIx) => i.val), b8 (classIx f.cls).val, b8 f.origin.code,
        if f.listed then 1 else 0] ++ le 4 f.firstSeen.toNat ++ le 4 f.lastSeen.toNat ++ le 4 f.bytes)
    | none => fill 64 [255]) ∧
  (∀ (s : State) (i : Fin 64), s.entryBytes 2 i.val =
    let r := s.flc.rules.get i
    fill 64 ([if r.enabled then 1 else 0, if r.stage = .one then 0 else 1, r.armGroup, r.protoValue, r.protoMask,
        match r.family with
          | .any => 0
          | .ipv4 => 1
          | .ipv6 => 2]
      ++ be 16 r.addr.toNat ++ [b8 r.prefixLen] ++ le 2 r.portLow.toNat ++ le 2 r.portHigh.toNat
      ++ [if r.invert then 1 else 0, b8 r.dscpValue.toNat, b8 r.dscpMask.toNat] ++ le 2 r.lengthLow ++ le 2 r.lengthHigh
      ++ (match r.selector with
        | .any => [0, 0, 0, 0, 0, 0, 0]
        | .mac m => [1] ++ macBytes m
        | .profile p => [2, b8 p.val, 0, 0, 0, 0, 0])
      ++ [match r.response with
          | .terminal => 0
          | .pass => 1
          | .drop => 2, b8 (classIx r.cls).val, b8 (bit r.listed 0 + bit r.report 1 + bit r.arm 2)]
      ++ le 2 r.armTime ++ le 4 r.hits)) ∧
  (∀ (s : State) (p : ProfIx), s.entryBytes 3 p.val =
    let x := s.profile p
    fill 128 ([if x.inUse then 1 else 0, b8 x.lock.code] ++ (x.allowances.toList.map fun a => le 2 a).flatten
      ++ le 4 x.threshold
      ++ (x.windows.toList.map fun w => [b8 w.mask.toNat] ++ le 2 w.start ++ le 2 w.stop).flatten
      ++ [if x.paused then 1 else 0, b8 x.count, b8 x.initial.val]
      ++ (x.states.toList.map fun g => [b8 g.level.code, b8 g.spentLevel.code]
        ++ (g.transitions.toList.map fun t => [b8 (t.cond.code + bit t.enabled 7), b8 t.dest.val]).flatten).flatten
      ++ [b8 x.current.val])) ∧
  (∀ (s : State) (k : Fin 7), s.entryBytes 4 k.val =
    match s.mlc.peers.get k with
    | some q => fill 32 ([b8 q.node.val] ++ macBytes q.mac ++ le 2 q.rate ++ [if q.present then 1 else 0]
        ++ le 4 (q.lastHeard.getD 0).toNat ++ le 2 (q.lastSeq.getD 0).toNat
        ++ [b8 q.load, b8 (bit q.hold 0 + bit q.staging 1 + bit q.stagedComplete 2 + bit q.lastHeard.isSome 3
          + bit q.lastSeq.isSome 4)]
        ++ le 4 q.stagingId.toNat ++ le 2 q.chunksHeld ++ le 4 q.activeId.toNat)
    | none => fill 32 [255]) ∧
  (∀ (s : State) (k : Fin 256), s.entryBytes 5 k.val =
    match s.frp.addresses.get k with
    | some e => fill 16 (macBytes e.mac ++ [b8 (portIx e.port).val] ++ le 4 e.lastSeen.toNat)
    | none => fill 16 [255]) ∧
  (∀ (s : State) (k : Nat) (c : ChunkState), s.ups.map[k]? = some c → s.entryBytes 6 k =
    [match c with
      | .missing => 0
      | .writing => 1
      | .present => 2]) ∧
  ([StaState.free, .active, .watched, .offering, .moving, .withdrawing, .left, .reserved].map StaState.code =
      [0, 1, 2, 3, 4, 5, 6, 7] ∧
    [Gate.opened, .noGame, .listedOnly, .blocked].map Gate.code = [0, 1, 2, 3] ∧
    [Lock.unlocked, .programLocked, .fullLocked].map Lock.code = [0, 1, 2] ∧
    (∀ i, (Origin.rule i).code = i.val) ∧ Origin.unmatched.code = 64 ∧ Origin.handed.code = 65 ∧
    [Cond.wOpen 0, .wOpen 1, .wOpen 2, .wOpen 3, .wClosed 0, .wClosed 1, .wClosed 2, .wClosed 3, .paused, .notPaused,
      .dayStart, .anySpent, .noneSpent].map Cond.code = [0, 1, 2, 3, 4, 5, 6, 7, 8, 9, 10, 11, 12] ∧
    [TClass.ctrl, .game, .live, .normal, .bulk, .update].map (fun c => (classIx c).val) = [0, 1, 2, 3, 4, 5] ∧
    [PortId.localPort, .wan, .radioA, .radioB, .mesh].map (fun p => (portIx p).val) = [0, 1, 2, 3, 4] ∧
    [Status.ok, .again, .refusedState, .badParam, .noRoom, .notFound, .duplicate, .locked, .sequence, .unknownOrder,
      .areaError, .deferred, .flashError, .crcMismatch, .cancelled, .declined, .timeout].map Status.code =
      [0, 1, 2, 3, 4, 5, 6, 7, 8, 9, 10, 11, 12, 13, 14, 15, 16] ∧
    [ReportKind.steer, .handoffDone, .handoffFailed, .stationArrived, .stationGone, .reservationExpired, .settleLost,
      .allowanceSpent, .profileState, .profileCycle, .ruleHit, .peerChange, .stagingComplete, .chunkFailed,
      .fetchStalled, .holdEnd, .recordInvalid, .reverted, .trialStart].map ReportKind.code =
      [1, 2, 3, 4, 5, 6, 7, 8, 9, 10, 11, 12, 13, 14, 15, 16, 17, 18, 19]) ∧
  ([kBeacon, kSignalQuery, kSignalReport, kOffer, kAccept, kDecline, kConfirm, kSettle, kSettleAck, kWithdraw,
      kWithdrawAck, kChunkWant, kChunkData, kChunkNone] = [1, 2, 3, 4, 5, 6, 7, 8, 9, 10, 11, 12, 13, 14] ∧
    [reasonTrialPending, reasonUpdating, reasonBusy, reasonDuplicate, reasonNoRoom, reasonAbsent, reasonWithdrawn,
      reasonTimeout] = [1, 2, 3, 4, 5, 6, 7, 8] ∧
    [Cause.minute, .rollover, .setRollover, .clockChange, .spentChange, .membership, .grant, .setProfile, .setProgram,
      .pause, .resume, .restart].map Cause.code = [0, 1, 2, 3, 4, 5, 6, 7, 8, 9, 10, 11] ∧
    [PresenceCause.heard, .silent, .meshOff, .cleared].map PresenceCause.code = [0, 1, 2, 3] ∧
    [Staging.idle, .staging, .rescanning, .complete, .hold].map Staging.code = [0, 1, 2, 3, 4] ∧
    [Slot.a, .b].map Slot.code = [0, 1]) ∧
  (let kinds : List (BlockId × List Nat) := [(.exu, [0x00, 0x01, 0x02, 0x03]), (.frp, [0x10, 0x11]),
      (.flc, [0x20, 0x21, 0x22, 0x23]), (.stt, [0x30, 0x31, 0x32, 0x33]), (.sck, [0x40, 0x41]),
      (.pfe, [0x50, 0x51, 0x52, 0x53, 0x54, 0x55, 0x56]), (.mlc, [0x60, 0x61, 0x62, 0x63]), (.hoc, [0x70, 0x71]),
      (.ups, [0x80, 0x81, 0x82, 0x83, 0x84, 0x85, 0x86, 0x87, 0x88, 0x89]), (.fls, [0x90])]
   ∀ k : Byte, (definedKind k = true ↔ ∃ x ∈ kinds, k.toNat ∈ x.2) ∧ (∀ x ∈ kinds, k.toNat ∈ x.2 → ownerOf k = x.1) ∧
      (definedKind k = false → ownerOf k = .exu)) ∧
  (∀ s : State, (∀ p, s.port p = s.frp.ports.get (portIx p)) ∧ (∀ i, s.sta i = s.stt.recs.get i) ∧
    ∀ p, s.profile p = s.pfe.profiles.get p) ∧
  (∀ n v : Nat, (le n v).length = n ∧ be n v = (le n v).reverse ∧ ∀ k < n, byteAt (le n v) k = b8 (v / 256 ^ k)) ∧
  (∀ (l : List Byte) (i n : Nat),
    byteAt l i = (l[i]?).getD 0 ∧ leAt l i n < 256 ^ n ∧ beAt l i n < 256 ^ n ∧
    (∀ k < n, leAt l i n / 256 ^ k % 256 = (byteAt l (i + k)).toNat ∧
      beAt l i n / 256 ^ k % 256 = (byteAt l (i + (n - 1 - k))).toNat) ∧
    pad n l = fill n (l.take n)) ∧
  (∀ (m : Mac) (l : List Byte) (i : Nat), macBytes m = be 6 m.toNat ∧ (macAt l i).toNat = beAt l i 6) ∧
  (flagByte true = 1 ∧ flagByte false = 0 ∧ ∀ (o : Order) (i : Nat), o.u8 i = (byteAt o.params i).toNat ∧
    o.u16 i = leAt o.params i 2 ∧ o.u32 i = leAt o.params i 4 ∧ (o.flag i = true ↔ byteAt o.params i ≠ 0)) ∧
  (∀ (α : Type) (n : Nat) (v : Vector α n) (i j : Fin n) (x : α), (put v i x).get j = if j = i then x else v.get j)

/-! ## The Frame Path (chapter 2) -/

/-- SET_PORT (R29, R30, R79): a port code above 4 is BAD_PARAM; else every field is clamped to its range, but for the
overhead of a wired port, held as written (log entry 23), the scheduler takes its starting values, and a port turned
off loses its queued copies and its address entries, their buffers returning to the pool. No other port and no other
block changes. PORT_STATS (R44): it answers the two sent counters or the seven drop counters of a port's class, and
clears exactly those when asked; an undefined port, class or set is BAD_PARAM. -/
def Obligations.PortIsSetAndItsCountersRead : Prop :=
  (∀ s o, s.freshHead .frp 0x10 = some o →
     (4 < o.u8 0 → exec .setPort s = .next (s.refuse o .badParam)) ∧
     (∀ p : PortId, o.u8 0 = (portIx p).val →
       let x := s.port p
       let turnsOff := x.enabled = true ∧ o.flag 1 = false
       let depth := min 65535 (o.u16 8)
       let config : PortConfig :=
         { rate := min (if p = .localPort ∨ p = .wan then 10000 else 4800) (max 1 (o.u16 2))
           overhead := if p = .localPort ∨ p = .wan then o.u16 4 else min 1000 (o.u16 4)
           share := min 1000 (o.u16 6), depth := depth
           quanta := Vector.ofFn fun k : Fin 4 => min 16383 (max 1 (o.u16 (10 + 2 * k.val)))
           limits := Vector.ofFn fun k : Fin 6 => min 1024 (max 1 (o.u16 (18 + 2 * k.val))) }
       ∃ t, exec .setPort s = .next t ∧ t = { s with exu := t.exu, frp := t.frp } ∧
         t.port p = { x with
           enabled := o.flag 1, config := config, bucket := (depth : Int), remainder := 0, lastAdvance := s.sck.us
           deficits := .replicate 4 0, pointer := 0, quantumAdded := false, opportunity := x.opportunity && o.flag 1
           queues := if turnsOff then .replicate 6 [] else x.queues } ∧
         (∀ q, q ≠ p → t.port q = s.port q) ∧
         t.frp.free = s.frp.free + (if turnsOff then x.queued else 0) ∧
         t.frp.addresses = (if turnsOff then s.frp.addresses.map fun e => e.filter fun a => a.port != p
           else s.frp.addresses) ∧
         t.exu = (s.accept o ([BitVec.ofNat 8 (portIx p).val, flagByte (o.flag 1)]
           ++ le 2 (if turnsOff then x.queued else 0))).exu)) ∧
  (∀ s o, s.freshHead .frp 0x11 = some o →
     (4 < o.u8 0 ∨ 5 < o.u8 1 ∨ 1 < o.u8 2 → exec .portStats s = .next (s.refuse o .badParam)) ∧
     (∀ (p : PortId) (c : TClass), o.u8 0 = (portIx p).val → o.u8 1 = (classIx c).val →
       let x := s.port p
       let k := x.stats.get (classIx c)
       let cleared := fun d : ClassStats =>
         if o.flag 3 then s.setPort p { x with stats := put x.stats (classIx c) d } else s
       (o.u8 2 = 0 → exec .portStats s = .next
         ((cleared { k with framesSent := 0, bytesSent := 0 }).accept o (le 4 k.framesSent ++ le 4 k.bytesSent))) ∧
       (o.u8 2 = 1 → exec .portStats s = .next
         ((cleared ⟨k.framesSent, k.bytesSent, 0, 0, 0, 0, 0, 0, 0⟩).accept o (le 4 k.length ++ le 4 k.unknownSource
           ++ le 4 k.gate ++ le 4 k.queue ++ le 4 k.pool ++ le 4 k.notHere ++ le 4 k.hold))))) ∧
  (∀ (s : State) (p : PortId) (x : Port),
    s.setPort p x = { s with frp := { s.frp with ports := put s.frp.ports (portIx p) x } } ∧
    x.queued = (x.queues.toList.map List.length).sum ∧ ∀ c, x.queue c = x.queues.get (classIx c))

/-- Stage 1 (R31, R32): a port whose receive store is taken leaves a frame with its device; a disabled port discards
it; a frame shorter than 60 or longer than 2048 bytes is counted LENGTH under NORMAL; a frame of the mesh control type
goes to the Mesh Link Controller from MESH and is discarded elsewhere; any other waits for stage 2. Stage 2 (R33, R41,
R90): on a radio a frame whose source is no station there is counted UNKNOWN_SOURCE and dropped, and one of a station
moves that station's signal average; on the other ports an individual source MAC is learned. The destination station
and the address entry are found and the frame waits for stage 3. With every MAC in one place (R41) the source station
on a radio is the record that holds the MAC there in ACTIVE, WATCHED, OFFERING, MOVING or WITHDRAWING; the destination
of an individual MAC is the non-FREE record that holds it, with its state, and else its address entry's port; a group
address has neither. That the destination MAC is the first six bytes of a frame, the source MAC the next six and the
type the two after them is presumed: log entry 9. -/
def Obligations.IngressStagesOneAndTwo : Prop :=
  (∀ (s : State) (p : PortId) (f : List Byte) (sample : Int),
     ((s.port p).ingress.isSome = true ∨ (s.port p).enabled = false → exec (.acceptance p f sample) s = .next s) ∧
     ((s.port p).ingress = none → (s.port p).enabled = true →
       (f.length < 60 ∨ 2048 < f.length → exec (.acceptance p f sample) s = .next (s.count p .normal .length)) ∧
       (60 ≤ f.length → f.length ≤ 2048 → frameType f = s.mlc.etherType → exec (.acceptance p f sample) s =
         .next (if p = .mesh then { s with mlc := { s.mlc with frames := s.mlc.frames ++ [f] } } else s)) ∧
       (60 ≤ f.length → f.length ≤ 2048 → frameType f ≠ s.mlc.etherType → exec (.acceptance p f sample) s =
         .next (s.setPort p { s.port p with
           ingress := some ⟨.ends, f, sample, none, none, none, .normal, false, false, []⟩ })))) ∧
  (∀ (s : State) (p : PortId) (x : Ingress), (s.port p).ingress = some x → x.stage = .ends →
     let m := frameSource x.frame
     (∀ r, portRadio p = some r → s.sourceOn r m = none → exec (.endResolution p) s =
       .next ((s.count p .normal .unknownSource).setIngress p none)) ∧
     (∀ r i, portRadio p = some r → s.sourceOn r m = some i →
       let t := s.setSta i { s.sta i with signal := some (signalStep (s.sta i).signal x.sample) }
       let d := t.destinationOf (frameDest x.frame)
       exec (.endResolution p) s =
         .next (t.setIngress p (some { x with stage := .flow, source := some i, dest := d.1, entry := d.2 }))) ∧
     (portRadio p = none →
       let t := if groupMac m then s else s.learn m p
       let d := t.destinationOf (frameDest x.frame)
       exec (.endResolution p) s = .next (t.setIngress p (some { x with stage := .flow, dest := d.1, entry := d.2 })))) ∧
  (∀ (s : State) (r : Radio) (m : Mac), MacInv s →
     let source := fun i => (s.sta i).mac = m ∧ (s.sta i).radio = r ∧ ((s.sta i).state = .active ∨
       (s.sta i).state = .watched ∨ (s.sta i).state = .offering ∨ (s.sta i).state = .moving ∨
       (s.sta i).state = .withdrawing)
     (∀ i, s.sourceOn r m = some i ↔ source i) ∧ (s.sourceOn r m = none ↔ ∀ i, ¬source i)) ∧
  (∀ (s : State) (m : Mac), MacInv s →
     let holds := fun i => (s.sta i).state ≠ .free ∧ (s.sta i).mac = m
     let entry := fun e : AddrEntry => e.mac = m ∧ ∃ k, s.frp.addresses.get k = some e
     (groupMac m = m.getLsbD 40) ∧
     (groupMac m = true → s.destinationOf m = (none, none)) ∧
     (groupMac m = false → (∀ i, holds i → s.destinationOf m = (some (i, (s.sta i).state), none)) ∧
       ((∀ i, ¬holds i) → (∀ e, entry e → s.destinationOf m = (none, some e.port)) ∧
         ((∀ e, ¬entry e) → s.destinationOf m = (none, none))))) ∧
  (∀ f : List Byte, (frameDest f).toNat = beAt f 0 6 ∧ (frameSource f).toNat = beAt f 6 6 ∧
     (frameType f).toNat = beAt f 12 2) ∧
  ([PortId.localPort, .wan, .radioA, .radioB, .mesh].map portRadio = [none, none, some .a, some .b, none] ∧
     radioPort .a = .radioA ∧ radioPort .b = .radioB ∧
     ∀ (s : State) (p : PortId) (x : Option Ingress), s.setIngress p x = s.setPort p { s.port p with ingress := x })

/-- Learning (R41): a MAC that a non-FREE record holds is not learned; any other has exactly one changed entry
afterwards, which holds it with the port and the present time: its old entry when it had one, else the lowest free
entry, else the one seen longest ago, the lowest of equals. The checks of a whole second (R42, R51, R64): address
entries not seen for 300000 ms go; flow records idle for the limit of their class go, and last-GAME times of an hour
at the node and of a minute at a station become the never mark. A MAC is looked up among the records that are not FREE
and in the address table. A time lies in the past when the wrapped difference to the present is below 2^31 (R167);
that one which does not is taken as no time ago is the model's choice: log entry 38. -/
def Obligations.AddressesAreLearnedAndAged : Prop :=
  (∀ (s : State) (m : Mac) (p : PortId),
     (∀ i, s.findMac m = some i → s.learn m p = s) ∧
     (s.findMac m = none → ∃ i, (s.learn m p).findAddr m = some i ∧
       (s.learn m p).frp.addresses.get i = some ⟨m, p, s.now⟩ ∧
       (∀ j, j ≠ i → (s.learn m p).frp.addresses.get j = s.frp.addresses.get j) ∧
       (∀ k, s.findAddr m = some k → i = k) ∧
       ((s.findAddr m = none ∧ ∃ k, s.frp.addresses.get k = none) →
         s.frp.addresses.get i = none ∧ ∀ k < i, s.frp.addresses.get k ≠ none) ∧
       (s.findAddr m = none → (∀ k, s.frp.addresses.get k ≠ none) → ∀ k e f, s.frp.addresses.get k = some e →
         s.frp.addresses.get i = some f → age s.sck.ms e.lastSeen ≤ age s.sck.ms f.lastSeen ∧
         (age s.sck.ms e.lastSeen = age s.sck.ms f.lastSeen → i ≤ k)) ∧
       s.learn m p = { s with frp := { s.frp with addresses := (s.learn m p).frp.addresses } })) ∧
  (∀ s, s.frp.agingDue = true → exec .addressAging s = .next { s with frp := { s.frp with
    agingDue := false
    addresses := s.frp.addresses.map fun e => e.filter fun a => !pastBy s.sck.ms a.lastSeen 300000 } }) ∧
  (∀ s, s.flc.agingDue = true → exec .flowAging s = .next { s with
    flc := { s.flc with
      agingDue := false
      sets := s.flc.sets.map fun set => set.map fun w => w.filter fun f =>
        !pastBy s.sck.ms f.lastSeen (s.flc.limits.get (limitIx f.cls) * 1000)
      lastGame := s.flc.lastGame.filter fun t => !pastBy s.sck.ms t 3600000 }
    stt := { s.stt with recs := s.stt.recs.map fun r =>
      { r with lastGame := r.lastGame.filter fun t => !pastBy s.sck.ms t 60000 } } }) ∧
  (∀ (s : State) (m : Mac),
     let holds := fun i => (s.sta i).state ≠ .free ∧ (s.sta i).mac = m
     let entry := fun k => ∃ e, s.frp.addresses.get k = some e ∧ e.mac = m
     (∀ i, s.findMac m = some i ↔ holds i ∧ ∀ j < i, ¬holds j) ∧ (s.findMac m = none ↔ ∀ i, ¬holds i) ∧
     (∀ k, s.findAddr m = some k ↔ entry k ∧ ∀ j < k, ¬entry j) ∧ (s.findAddr m = none ↔ ∀ k, ¬entry k)) ∧
  (∀ (now t : Ms) (n : Nat),
     let past := (now - t).toNat < 2 ^ 31
     (reached now t = true ↔ past) ∧ (pastBy now t n = true ↔ past ∧ n ≤ (now - t).toNat) ∧
     age now t = if past then (now - t).toNat else 0) ∧
  ([TClass.game, .live, .normal, .bulk, .update].map (fun c => (limitIx c).val) = [0, 1, 2, 3, 4] ∧
     ∀ s : State, s.now = s.sck.ms)

/-- A rate notice sets the clamped rate of the station that holds the MAC on that radio and serves there, and is
discarded when there is none (R89). An overheard sample moves the average of every listen-list entry of its MAC
(R139). The transmit states (R72, R74, R80): a link-ready makes a port that is NOT_READY READY, with an opportunity
due when it is enabled; a completion in SENDING counts the frame as sent under its class, returns its buffer and
leaves NOT_READY; a completion of a frame that was on the link at an engine reset returns its buffer and counts
nothing. The signal average (R90) moves from a first sample or by an eighth of the difference, rounded down, in
sixteenths of a dBm, of the sample clamped to -127..0; it stays within that range. -/
def Obligations.ReceiveNoticesSamplesAndTheLink : Prop :=
  (∀ s radio mac rate i, s.sourceOn radio mac = some i → exec (.rateNotice radio mac rate) s =
    .next (s.setSta i { s.sta i with rate := min 4800 (max 1 rate.toNat) })) ∧
  (∀ s radio mac rate, s.sourceOn radio mac = none → exec (.rateNotice radio mac rate) s = .next s) ∧
  (∀ s mac sample, exec (.overheardSample mac sample) s = .next { s with hoc := { s.hoc with
    listen := s.hoc.listen.map fun e =>
      if e.mac = mac then { e with average := some (signalStep e.average sample) } else e } }) ∧
  (∀ s p, (s.port p).tx = .notReady → exec (.linkReady p) s =
    .next (s.setPort p { s.port p with tx := .ready, opportunity := (s.port p).enabled })) ∧
  (∀ s p, (s.port p).tx ≠ .notReady → exec (.linkReady p) s = .next s) ∧
  (∀ s p l, (s.port p).tx = .sending → (s.port p).onLink = some l → exec (.transmitCompletion p) s =
    let x := s.port p
    let k := x.stats.get (classIx l.copy.cls)
    let sent : ClassStats := { k with
      framesSent := min 4294967295 (k.framesSent + 1), bytesSent := min 4294967295 (k.bytesSent + l.copy.frame.length) }
    .next { s with frp := { s.frp with
      ports := put s.frp.ports (portIx p)
        { x with tx := .notReady, onLink := none, stats := put x.stats (classIx l.copy.cls) sent }
      free := s.frp.free + 1 } }) ∧
  (∀ s p, (s.port p).tx ≠ .sending → (s.port p).ghosts ≠ 0 → exec (.transmitCompletion p) s =
    .next { s with frp := { s.frp with
      ports := put s.frp.ports (portIx p) { s.port p with ghosts := (s.port p).ghosts - 1 }, free := s.frp.free + 1 } }) ∧
  (∀ s p, (s.port p).tx ≠ .sending → (s.port p).ghosts = 0 → exec (.transmitCompletion p) s = .next s) ∧
  (∀ sample : Int, signalStep none sample = 16 * max (-127) (min 0 sample)) ∧
  (∀ (a sample : Int), 8 * (signalStep (some a) sample - a) ≤ 16 * max (-127) (min 0 sample) - a ∧
    16 * max (-127) (min 0 sample) - a < 8 * (signalStep (some a) sample - a) + 8) ∧
  (∀ (avg : Option Int) (sample : Int), (∀ a, avg = some a → -2032 ≤ a ∧ a ≤ 0) →
    -2032 ≤ signalStep avg sample ∧ signalStep avg sample ≤ 0)

/-- Stage 3 (R34, R48, R49, R50): a frame that is not IP is NORMAL and not LISTED; a frame whose key the flow table
holds takes the record's class and moves its last-seen time and byte count; any other runs the match list for its
station, and one toward a station in LEFT runs it without looking up or inserting. The record of a key is looked for
in the key's own set (R48). A search that drops the frame ends its ingress; one that classes it inserts a record, but
for a station that no longer holds the MAC, in the way of its key, the lowest free way or in place of the record seen
longest ago. The search (R53, R54, R55, R56, R59) takes the enabled rules in index order: a rule that does not match
is passed over, one that matches counts its hit and acts by its response, and with no rule left the frame is NORMAL. A
hit gives RULE_HIT where the rule reports and arms the rule's group where it arms, in the position R58 gives. The
expired entries of an arm list go where it is examined (R57). That a profile selector and a stage-TWO condition match,
and a hit arms, only while the station's record still holds the frame's MAC is the model's choice: log entry 13. -/
def Obligations.FlowLookupSearchesTheMatchList : Prop :=
  (∀ (s : State) (p : PortId) (x : Ingress), (s.port p).ingress = some x → x.stage = .flow →
     let classed := fun (t : State) (c : TClass) (l : Bool) =>
       t.setIngress p (some { x with stage := .gate, cls := c, listed := l })
     (ipInfo x.frame = none → exec (.flowLookup p) s = .next (classed s .normal false)) ∧
     (∀ ip, ipInfo x.frame = some ip →
       ((∃ i, x.dest = some (i, .left)) → exec (.flowLookup p) s = .next (s.runMatchList p x ip false)) ∧
       ((∀ i, x.dest ≠ some (i, .left)) →
         (s.findFlow ip.key = none → exec (.flowLookup p) s = .next (s.runMatchList p x ip true)) ∧
         (∀ w f, wayOf (s.flc.sets.get ip.key.set) ip.key = some w → (s.flc.sets.get ip.key.set).get w = some f →
           let g := { f with lastSeen := s.sck.ms, bytes := min 4294967295 (f.bytes + x.frame.length) }
           exec (.flowLookup p) s = .next (classed { s with flc := { s.flc with
             sets := put s.flc.sets ip.key.set (put (s.flc.sets.get ip.key.set) w (some g)) } } f.cls f.listed))))) ∧
  (∀ (s : State) (p : PortId) (x : Ingress) (ip : IpInfo) (insert : Bool),
     let station : Option (StaIx × Mac) := match x.source, x.dest with
       | some i, _ => some (i, frameSource x.frame)
       | none, some (i, g) => if g = .free ∨ g = .left then none else some (i, frameDest x.frame)
       | none, none => none
     let holds := fun (t : State) (lost : StaState → Prop) =>
       ∀ i m, station = some (i, m) → (t.sta i).mac = m ∧ ¬lost (t.sta i).state
     let q : Search := ⟨ip, x.frame.length, p, station.map Prod.fst, (station.map Prod.snd).getD 0, match station with
       | some (i, m) => (s.sta i).mac == m && (s.sta i).state != .free
       | none => false⟩
     let r := State.searchFrom q (List.finRange 64) s
     (r.2 = .dropped → s.runMatchList p x ip insert = r.1.setIngress p none) ∧
     (∀ c l origin, r.2 = .classed c l origin →
       let classed := fun (t : State) => t.setIngress p (some { x with stage := .gate, cls := c, listed := l })
       let placed := insert = true ∧ holds r.1 fun g => g = .free ∨ g = .left
       (placed → s.runMatchList p x ip insert = classed (r.1.placeFlow
         ⟨ip.key, station.map Prod.fst, c, origin, l, r.1.sck.ms, r.1.sck.ms, x.frame.length⟩)) ∧
       (¬placed → s.runMatchList p x ip insert = classed r.1))) ∧
  (∀ (s : State) (f : Flow), ∃ w,
     let set := s.flc.sets.get f.key.set
     s.placeFlow f = { s with flc := { s.flc with sets := put s.flc.sets f.key.set (put set w (some f)) } } ∧
     (∀ k g, set.get k = some g → g.key = f.key → ∃ h, set.get w = some h ∧ h.key = f.key) ∧
     ((∀ k g, set.get k = some g → g.key ≠ f.key) →
       ((∃ k, set.get k = none) → set.get w = none ∧ ∀ k < w, set.get k ≠ none) ∧
       ((∀ k, set.get k ≠ none) → ∀ k g h, set.get k = some g → set.get w = some h →
         age s.sck.ms g.lastSeen ≤ age s.sck.ms h.lastSeen ∧
         (age s.sck.ms g.lastSeen = age s.sck.ms h.lastSeen → w ≤ k)))) ∧
  (∀ (s : State) (q : Search), State.searchFrom q [] s = (s, .classed .normal false .unmatched)) ∧
  (∀ (s : State) (q : Search) (i : Fin 64) (rest : List (Fin 64)),
     let r := s.flc.rules.get i
     let t := s.examineFor q r
     let u := t.ruleHit q i r
     (r.enabled = false ∨ t.ruleMatches q r = false → State.searchFrom q (i :: rest) s =
       State.searchFrom q rest (if r.enabled then t else s)) ∧
     (r.enabled = true → t.ruleMatches q r = true →
       (r.response = .terminal → State.searchFrom q (i :: rest) s = (u, .classed r.cls r.listed (.rule i))) ∧
       (r.response = .drop → State.searchFrom q (i :: rest) s = (u, .dropped)) ∧
       (r.response = .pass → State.searchFrom q (i :: rest) s = State.searchFrom q rest u))) ∧
  (∀ (s : State) (q : Search) (r : Rule),
     let ends := fun (addr : BitVec 128) (port : Half) =>
       (r.family = .any ∨ (q.ip.version = (if r.family = .ipv4 then 4 else 6) ∧
         ∀ k < r.prefixLen, addr.getLsbD (127 - k) = r.addr.getLsbD (127 - k))) ∧
       (r.portLow ≤ port ∧ port ≤ r.portHigh ↔ r.invert = false)
     s.ruleMatches q r = true ↔
       q.ip.protocol &&& r.protoMask = r.protoValue &&& r.protoMask ∧
       (ends q.ip.source q.ip.sourcePort ∨ ends q.ip.dest q.ip.destPort) ∧
       q.ip.dscp &&& r.dscpMask = r.dscpValue &&& r.dscpMask ∧ r.lengthLow ≤ q.len ∧ q.len ≤ r.lengthHigh ∧
       (match r.selector with
         | .any => True
         | .mac m => q.station.isSome = true ∧ q.mac = m
         | .profile n => ∃ i, q.station = some i ∧ q.held = true ∧ (s.sta i).profile = some n) ∧
       (r.stage = .one ∨ ∃ i k a, q.station = some i ∧ q.held = true ∧ (s.sta i).arms.get k = some a ∧
         a.group = r.armGroup)) ∧
  (∀ (s : State) (q : Search) (i : Fin 64) (r : Rule),
     let hits := min 4294967295 (r.hits + 1)
     let port : Byte := BitVec.ofNat 8 (portIx q.ingress).val
     let t : State := { s with
       flc := { s.flc with rules := put s.flc.rules i { r with hits := hits } }
       exu := { s.exu with arrivals := s.exu.arrivals ++ if r.report then
         [⟨.ruleHit, i.val, s.sck.ms, le 4 hits ++ [match q.station with
           | some k => BitVec.ofNat 8 k.val
           | none => 255, port] ++ q.ip.key.bytes⟩] else [] } }
     (r.arm = false ∨ q.station = none ∨ q.held = false → s.ruleHit q i r = t) ∧
     (∀ k, r.arm = true → q.station = some k → q.held = true →
       s.ruleHit q i r = t.armStation k r.armGroup r.armTime)) ∧
  (∀ (s : State) (q : Search) (r : Rule) (i : StaIx) (g : Byte) (n : Nat), (s.sta i).state ≠ .free →
     let live := (s.sta i).arms.map fun (e : Option Arm) => e.filter fun a => !reached s.sck.ms a.expiry
     let has := fun k => ∃ a, live.get k = some a ∧ a.group = g
     (r.stage = .two → q.station = some i → q.held = true →
       s.examineFor q r = s.setSta i { s.sta i with arms := live }) ∧
     ∃ k, s.armStation i g n = s.setSta i { s.sta i with
         arms := put live k (some ⟨g, s.sck.ms + BitVec.ofNat 32 (n * 1000)⟩) } ∧
       ((∃ j, has j) → has k) ∧
       ((∀ j, ¬has j) → (∃ j, live.get j = none) → live.get k = none ∧ ∀ j < k, live.get j ≠ none) ∧
       ((∀ j, ¬has j) → (∀ j, live.get j ≠ none) → ∀ j a b, live.get j = some a → live.get k = some b →
         (b.expiry - s.sck.ms).toNat ≤ (a.expiry - s.sck.ms).toNat ∧ (a.expiry = b.expiry → k ≤ j))) ∧
  (∀ (s : State) (q : Search) (r : Rule), r.stage = .one ∨ q.station = none ∨ q.held = false → s.examineFor q r = s) ∧
  (∀ (s : State) (set : Vector (Option Flow) 4) (key : FlowKey),
     let holds := fun w => ∃ f, set.get w = some f ∧ f.key = key
     (∀ w, wayOf set key = some w ↔ holds w ∧ ∀ j < w, ¬holds j) ∧ (wayOf set key = none ↔ ∀ w, ¬holds w) ∧
     (s.findFlow key = none ↔ wayOf (s.flc.sets.get key.set) key = none))

/-- Stages 4 and 5 (R35, R36, R95, R103, R104): a frame from LOCAL, a CTRL frame and a frame every gate passes go on;
a withheld one is counted GATE and goes on only with a LOCAL copy, if it would give one. The gates are those of the
source station and of a destination station that serves here, each while its record still holds the frame's MAC; OPEN
passes every frame, NO_GAME all but GAME, LISTED_ONLY the LISTED ones, BLOCKED none. Then the frame's length is added
to its source station's bytes, but for a withheld, LISTED or CTRL frame and one for LOCAL. Each of the nine counters
of a port and class (R43) moves alone, a drop by one in the counter of its cause, a frame sent by one and by its
bytes, up to 2^32 - 1. -/
def Obligations.GatesWithholdAndBytesAreCounted : Prop :=
  (∀ (s : State) (p : PortId) (x : Ingress), (s.port p).ingress = some x → x.stage = .gate →
    let y := { x with source := s.liveSource x, stage := .activity }
    let gate := fun i => match (s.sta i).gate with
      | .opened => True
      | .noGame => x.cls ≠ .game
      | .listedOnly => x.listed = true
      | .blocked => False
    let passes := p = .localPort ∨ x.cls = .ctrl ∨
      ((∀ i, s.liveSource x = some i → gate i) ∧
        ∀ i, s.liveDest x = some i → (s.sta i).state = .left ∨ (s.sta i).state = .reserved ∨ gate i)
    let forLocal := s.liveDest x = none ∧ ∃ c ∈ s.copiesOf p x, c.port = .localPort
    (passes → exec (.gateCheck p) s = .next (s.setIngress p (some y))) ∧
    (¬passes → forLocal → exec (.gateCheck p) s =
      .next ((s.count p x.cls .gate).setIngress p (some { y with localOnly := true }))) ∧
    (¬passes → ¬forLocal → exec (.gateCheck p) s = .next ((s.count p x.cls .gate).setIngress p none))) ∧
  (∀ (s : State) (x : Ingress),
    (∀ i, s.liveSource x = some i ↔ x.source = some i ∧ (s.sta i).mac = frameSource x.frame ∧
      (s.sta i).state ≠ .free ∧ (s.sta i).state ≠ .left ∧ (s.sta i).state ≠ .reserved) ∧
    (∀ i, s.liveDest x = some i ↔ ∃ g, x.dest = some (i, g) ∧ (s.sta i).mac = frameDest x.frame ∧
      (s.sta i).state ≠ .free)) ∧
  (∀ (s : State) (p : PortId) (x : Ingress), (s.port p).ingress = some x → x.stage = .activity →
    let y := { x with source := s.liveSource x, stage := .destination }
    let counts := x.localOnly = false ∧ x.listed = false ∧ x.cls ≠ .ctrl ∧ x.entry ≠ some .localPort
    (∀ i, s.liveSource x = some i → counts → exec (.activityByteCounting p) s =
      .next ((s.setSta i { s.sta i with bytes := min 4294967295 ((s.sta i).bytes + x.frame.length) }).setIngress p
        (some y))) ∧
    (s.liveSource x = none ∨ ¬counts → exec (.activityByteCounting p) s = .next (s.setIngress p (some y)))) ∧
  (∀ (s : State) (p : PortId) (c : TClass),
    let k := (s.port p).stats.get (classIx c)
    let one := fun n : Nat => min 4294967295 (n + 1)
    let moved := fun d : ClassStats => s.setPort p { s.port p with stats := put (s.port p).stats (classIx c) d }
    s.count p c .length = moved { k with length := one k.length } ∧
    s.count p c .unknownSource = moved { k with unknownSource := one k.unknownSource } ∧
    s.count p c .gate = moved { k with gate := one k.gate } ∧
    s.count p c .queue = moved { k with queue := one k.queue } ∧
    s.count p c .pool = moved { k with pool := one k.pool } ∧
    s.count p c .notHere = moved { k with notHere := one k.notHere } ∧
    s.count p c .hold = moved { k with hold := one k.hold } ∧
    ∀ n, s.count p c (.sent n) =
      moved { k with framesSent := one k.framesSent, bytesSent := min 4294967295 (k.bytesSent + n) })

/-- What a frame gives the classifier (R45): a frame of another ether type, or one whose header fails its checks, is
no IP frame, and stage 3 leaves it NORMAL and not LISTED; of the others the version, the protocol, the addresses, the
DSCP and the ports are read, the ports 0 unless the protocol is 6 or 17, the four bytes lie inside the frame and, for
IPv4, the fragment offset is 0. The key of a flow (R46): the frames of both directions give the same key. Endpoint A
is the smaller of the two by address and then port, and the source of equal ones. The 38 key bytes hold version,
protocol, address A, port A, address B and port B, most significant byte first, an IPv4 address with 12 bytes of 0
after it, and the set is the low 8 bits of their CRC-32, whose register takes one byte after the other, each with
eight shifts (R168). -/
def Obligations.FrameGivesItsNormalizedFlowKey : Prop :=
  (∀ f : List Byte,
    let b := fun k => (byteAt f (14 + k)).toNat
    let size := 4 * (b 0 % 16)
    let v4 := beAt f 12 2 = 0x0800 ∧ b 0 / 16 = 4 ∧ 5 ≤ b 0 % 16 ∧ 14 + size ≤ f.length
    let v6 := beAt f 12 2 = 0x86DD ∧ b 0 / 16 = 6 ∧ 54 ≤ f.length
    let ports := fun (x : IpInfo) (at_ : Nat) (first : Prop) =>
      let has := (x.protocol = 6 ∨ x.protocol = 17) ∧ at_ + 4 ≤ f.length ∧ first
      (has → x.sourcePort.toNat = beAt f at_ 2 ∧ x.destPort.toNat = beAt f (at_ + 2) 2) ∧
      (¬has → x.sourcePort = 0 ∧ x.destPort = 0)
    (ipInfo f = none ↔ ¬v4 ∧ ¬v6) ∧
    (∀ x, ipInfo f = some x → v4 → x.version = 4 ∧ x.protocol = byteAt f 23 ∧ x.dscp.toNat = b 1 / 4 ∧
      be 16 x.source.toNat = (f.drop 26).take 4 ++ List.replicate 12 0 ∧
      be 16 x.dest.toNat = (f.drop 30).take 4 ++ List.replicate 12 0 ∧ ports x (14 + size) (beAt f 20 2 % 8192 = 0)) ∧
    (∀ x, ipInfo f = some x → v6 → x.version = 6 ∧ x.protocol = byteAt f 20 ∧
      x.dscp.toNat = (b 0 % 16 * 16 + b 1 / 16) / 4 ∧
      be 16 x.source.toNat = (f.drop 22).take 16 ∧ be 16 x.dest.toNat = (f.drop 38).take 16 ∧ ports x 54 True)) ∧
  (∀ (s : State) (p : PortId) (x : Ingress), (s.port p).ingress = some x → x.stage = .flow → ipInfo x.frame = none →
    exec (.flowLookup p) s =
      .next (s.setIngress p (some { x with stage := .gate, cls := .normal, listed := false }))) ∧
  (∀ x : IpInfo,
    let k := x.key
    let sourceFirst := x.source.toNat < x.dest.toNat ∨
      (x.source.toNat = x.dest.toNat ∧ x.sourcePort.toNat ≤ x.destPort.toNat)
    IpInfo.key { x with source := x.dest, dest := x.source, sourcePort := x.destPort, destPort := x.sourcePort } = k ∧
    (sourceFirst → k = ⟨x.version, x.protocol, x.source, x.sourcePort, x.dest, x.destPort⟩) ∧
    (¬sourceFirst → k = ⟨x.version, x.protocol, x.dest, x.destPort, x.source, x.sourcePort⟩) ∧
    k.bytes.length = 38 ∧ byteAt k.bytes 0 = k.version ∧ byteAt k.bytes 1 = k.protocol ∧
    beAt k.bytes 2 16 = k.addrA.toNat ∧ beAt k.bytes 18 2 = k.portA.toNat ∧
    beAt k.bytes 20 16 = k.addrB.toNat ∧ beAt k.bytes 36 2 = k.portB.toNat ∧
    k.set.val = (crc32 k.bytes).toNat % 256) ∧
  (let shift := fun r : Word => if r.getLsbD 0 then (r >>> 1) ^^^ 0xEDB88320#32 else r >>> 1
   crc32 [] = 0 ∧ (∀ (l : List Byte) (b : Byte), crc32 (l ++ [b]) =
      Nat.repeat shift 8 ((crc32 l ^^^ 0xFFFFFFFF#32) ^^^ b.setWidth 32) ^^^ 0xFFFFFFFF#32) ∧
   crc32 [0x31, 0x32, 0x33, 0x34, 0x35, 0x36, 0x37, 0x38, 0x39] = 0xCBF43926#32)

/-- Stages 6 and 7 (R36, R37, R38): a frame toward a station goes to its radio, to its hold list while it moves, to
its forward peer once it has LEFT, and is counted NOT_HERE while it is RESERVED. Any other gives one copy for each port
it goes to, and each ENQUEUE offers the next copy to its port: a group frame goes to every enabled port but its own, in
port order; one whose MAC the address table holds to that port, or nowhere when it came from there; and an unknown one
to the enabled ones of LOCAL, WAN and MESH but its own. A held frame (R38, R144): with 64 held for the station or 512
in all it is counted HOLD, without a buffer for its class POOL; else it takes a buffer and joins the end of the list
with what its later enqueue needs (log entry 13). -/
def Obligations.DestinationResolutionRoutesTheFrame : Prop :=
  (∀ (s : State) (p : PortId) (x : Ingress), (s.port p).ingress = some x → x.stage = .destination →
    let copies := if x.localOnly then (s.copiesOf p x).filter fun c => c.port == .localPort else s.copiesOf p x
    let out := s.setIngress p none
    let offered := fun (k : Option StaIx) (n : Option Node) =>
      (⟨x.frame, x.cls, k, n, false, x.source, some p, x.listed⟩ : Offered)
    (s.liveDest x = none → exec (.destinationResolution p) s = .next (s.setIngress p
      (if copies = [] then none else some { x with stage := .enqueue, copies := copies }))) ∧
    (∀ i, s.liveDest x = some i →
      let r := s.sta i
      (x.localOnly = true → exec (.destinationResolution p) s = .next out) ∧
      (x.localOnly = false →
        (r.state = .active ∨ r.state = .watched ∨ r.state = .offering → exec (.destinationResolution p) s =
          .next (out.enqueueNew (radioPort r.radio) (offered (some i) none)).1) ∧
        (r.state = .moving ∨ r.state = .withdrawing → exec (.destinationResolution p) s =
          .next (out.holdFrame i ⟨x.frame, x.cls, p, x.source, x.listed⟩)) ∧
        (r.state = .left → exec (.destinationResolution p) s =
          .next (out.enqueueNew .mesh (offered none (r.forward.map Forward.peer))).1) ∧
        (r.state = .reserved → exec (.destinationResolution p) s = .next (out.count p x.cls .notHere))))) ∧
  (∀ (s : State) (p : PortId) (x : Ingress),
    let m := frameDest x.frame
    let flood := fun l : List PortId => (l.filter fun q => q != p && (s.port q).enabled).map fun q =>
      (⟨q, none, none, q == .radioA || q == .radioB⟩ : Pending)
    (∀ q, x.dest = none → groupMac m = false → x.entry = some q →
      s.copiesOf p x = if q = p then [] else [⟨q, none, none, false⟩]) ∧
    (x.dest = none → groupMac m = false → x.entry = none → s.copiesOf p x = flood [.localPort, .wan, .mesh]) ∧
    (groupMac m = true → s.copiesOf p x = flood [.localPort, .wan, .radioA, .radioB, .mesh]) ∧
    (∀ d, x.dest = some d → groupMac m = false → s.findMac m = none →
      (∀ k e, s.findAddr m = some k → s.frp.addresses.get k = some e →
        s.copiesOf p x = if e.port = p then [] else [⟨e.port, none, none, false⟩]) ∧
      (s.findAddr m = none → s.copiesOf p x = flood [.localPort, .wan, .mesh])) ∧
    (∀ d i, x.dest = some d → groupMac m = false → s.findMac m = some i →
      s.copiesOf p x = flood [.localPort, .wan, .mesh])) ∧
  (∀ (s : State) (i : StaIx) (h : Held),
    let r := s.sta i
    let list := r.held.getD []
    let full := 64 ≤ list.length ∨ 512 ≤ s.heldAll
    let noBuffer := s.frp.free = 0 ∨ (h.cls ≠ .ctrl ∧ h.cls ≠ .game ∧ s.frp.free ≤ 256)
    s.heldAll = (s.stt.recs.toList.map fun x => (x.held.getD []).length).sum ∧
    (full → s.holdFrame i h = s.count (radioPort r.radio) h.cls .hold) ∧
    (¬full → noBuffer → s.holdFrame i h = s.count (radioPort r.radio) h.cls .pool) ∧
    (¬full → ¬noBuffer → s.holdFrame i h = { s with
      frp := { s.frp with free := s.frp.free - 1 }
      stt := { s.stt with recs := put s.stt.recs i { r with held := some (list ++ [h]) } } })) ∧
  (∀ (s : State) (p : PortId) (x : Ingress) (c : Pending) (rest : List Pending),
    (s.port p).ingress = some x → x.stage = .enqueue → x.copies = c :: rest →
    exec (.enqueue p) s = .next ((s.setIngress p (if rest = [] then none else some { x with copies := rest })).enqueueNew
      c.port ⟨x.frame, x.cls, c.station, c.hop, c.broadcast, x.source, some p, x.listed⟩).1)

/-- A copy offered to a class queue (R38, R39, R40, R67, R70, R72): a disabled port or a full queue drops it as QUEUE,
an empty pool, or a pool at its reserve for a class below GAME, as POOL; else it takes a buffer and joins. A held
frame has its buffer: it joins under the first two tests alone, and one they drop gives the buffer back. A copy that
joins stands at the tail with the rate and cost of that moment, and a port that is READY has an opportunity due. Its
enqueue reports (R64, R104): a GAME copy is the game activity of the node and of its source and destination stations,
but not of one in LEFT; and the length of a copy toward a station's radio is added to that station's bytes, but for a
LISTED or CTRL frame and one from LOCAL. -/
def Obligations.ClassQueueTakesOrDropsACopy : Prop :=
  (∀ (s : State) (p : PortId) (f : Offered),
    let x := s.port p
    let k := classIx f.cls
    let full := x.enabled = false ∨ x.config.limits.get k ≤ (x.queues.get k).length
    let noBuffer := s.frp.free = 0 ∨ (f.cls ≠ .ctrl ∧ f.cls ≠ .game ∧ s.frp.free ≤ 256)
    (full → s.enqueueNew p f = (s.count p f.cls .queue, false)) ∧
    (¬full → noBuffer → s.enqueueNew p f = (s.count p f.cls .pool, false)) ∧
    (¬full → ¬noBuffer → s.enqueueNew p f =
      (State.join { s with frp := { s.frp with free := s.frp.free - 1 } } p f, true)) ∧
    (full → s.enqueueHeld p f = ((s.count p f.cls .queue).returnBuffers 1, false)) ∧
    (¬full → s.enqueueHeld p f = (s.join p f, true))) ∧
  (∀ (s : State) (p : PortId) (f : Offered), ∃ copy,
    let x := s.port p
    let k := classIx f.cls
    let t := s.join p f
    t.port p = { x with
      queues := put x.queues k (x.queues.get k ++ [copy]), opportunity := x.opportunity || x.tx == .ready } ∧
    (∀ q, q ≠ p → t.port q = s.port q) ∧ t.frp.free = s.frp.free ∧ t.frp.addresses = s.frp.addresses ∧
    copy.frame = f.frame ∧ copy.cls = f.cls ∧ copy.station = f.station ∧ copy.hop = f.hop ∧
    copy.broadcast = f.broadcast ∧ copy.rate = s.copyRate p f.station f.hop ∧
    copy.cost = (if p = .localPort ∨ p = .wan then (8 * (f.frame.length + 20) + copy.rate - 1) / copy.rate
      else x.config.overhead + (8 * f.frame.length + copy.rate - 1) / copy.rate) ∧
    t.flc = { s.flc with lastGame := if f.cls = .game then some s.sck.ms else s.flc.lastGame } ∧
    (∀ j, t.sta j = { s.sta j with
      lastGame := if f.cls = .game ∧ (f.source = some j ∨ f.station = some j) ∧ (s.sta j).state ≠ .free ∧
        (s.sta j).state ≠ .left then some s.sck.ms else (s.sta j).lastGame
      bytes := if f.station = some j ∧ (s.sta j).state ≠ .free ∧ f.listed = false ∧ f.cls ≠ .ctrl ∧
        f.ingress ≠ some .localPort then min 4294967295 ((s.sta j).bytes + f.frame.length) else (s.sta j).bytes }) ∧
    t = { s with frp := t.frp, flc := t.flc, stt := { s.stt with recs := t.stt.recs } }) ∧
  (∀ (s : State) (station : Option StaIx) (hop : Option Node),
    let clamped := fun n => min 4800 (max 1 n)
    s.copyRate .localPort station hop = (s.port .localPort).config.rate ∧
    s.copyRate .wan station hop = (s.port .wan).config.rate ∧
    (∀ r : Radio, s.copyRate (radioPort r) station hop = clamped (match station with
      | some i => (s.sta i).rate
      | none => (s.port (radioPort r)).config.rate)) ∧
    s.copyRate .mesh station hop = clamped (match hop.bind fun n => s.findPeer n.val with
      | some q => q.rate
      | none => (s.port .mesh).config.rate)) ∧
  (∀ (s : State) (n : Nat), s.returnBuffers n = { s with frp := { s.frp with free := s.frp.free + n } })

/-! ## The Airtime Scheduler (chapter 4) -/

/-- A transmit opportunity (R72, R73): the bucket is advanced and one copy is chosen; with a copy the port is SENDING
with it on the link, with none it stays READY. The request carries the MAC that the peer table holds for the copy's
next hop, and none for a copy without a next hop or whose peer the table no longer holds (R74, R127); that it is
looked up when the copy is chosen is the model's reading: log entry 19. No other port and no other block changes. The
order of the choice (R73, R76): a CTRL head goes first; then a GAME head while the bucket is not negative, its cost
charged down to at least -65535; then the round over LIVE, NORMAL, BULK and UPDATE; then a GAME head without credit;
and with every queue empty nothing is chosen. The bucket's advance (R75): its share of the elapsed time, at most one
second, is added to the bucket with the thousandths kept, and a bucket above its depth becomes the depth with
remainder 0. -/
def Obligations.TransmitOpportunitySendsTheSchedulersChoice : Prop :=
  (∀ s p, (s.port p).opportunity = true → (s.port p).enabled = true → (s.port p).tx = .ready →
     let r := ((s.port p).advance s.sck.us).choose
     (∀ c, r.2 = some c → exec (.transmitOpportunity p) s = .next (s.setPort p
       { r.1 with tx := .sending, onLink := some ⟨c, s.hopMac c⟩, opportunity := false })) ∧
     (r.2 = none → exec (.transmitOpportunity p) s = .next (s.setPort p { r.1 with tx := .ready, opportunity := false }))) ∧
  (∀ x : Port,
     let charged := fun (c : Copy) (rest : List Copy) =>
       { x with queues := put x.queues 1 rest, bucket := max (-65535) (x.bucket - (c.cost : Int)) }
     (∀ c rest, x.queues.get 0 = c :: rest → x.choose = ({ x with queues := put x.queues 0 rest }, some c)) ∧
     (∀ c rest, x.queues.get 0 = [] → 0 ≤ x.bucket → x.queues.get 1 = c :: rest →
       x.choose = (charged c rest, some c)) ∧
     (x.queues.get 0 = [] → (x.bucket < 0 ∨ x.queues.get 1 = []) → (∃ k : Fin 4, x.queue (drrClass k) ≠ []) →
       x.choose = Port.drrRound drrFuel x) ∧
     (∀ c rest, x.queues.get 0 = [] → x.bucket < 0 → (∀ k : Fin 4, x.queue (drrClass k) = []) →
       x.queues.get 1 = c :: rest → x.choose = (charged c rest, some c)) ∧
     ((∀ c : TClass, x.queue c = []) → x.choose = (x, none))) ∧
  (∀ (x : Port) (us : Us),
     let units := min (us - x.lastAdvance).toNat 1000000 * x.config.share + x.remainder
     (x.advance us).lastAdvance = us ∧
     (x.bucket + (units / 1000 : Nat) ≤ x.config.depth →
       1000 * (x.advance us).bucket + ((x.advance us).remainder : Int) = 1000 * x.bucket + (units : Int) ∧
       (x.advance us).remainder < 1000) ∧
     ((x.config.depth : Int) < x.bucket + (units / 1000 : Nat) →
       (x.advance us).bucket = x.config.depth ∧ (x.advance us).remainder = 0) ∧
     x.advance us = { x with
       bucket := (x.advance us).bucket, remainder := (x.advance us).remainder, lastAdvance := us }) ∧
  (∀ (s : State) (c : Copy),
     (c.hop = none → s.hopMac c = none) ∧
     (∀ n, c.hop = some n →
       (∀ k q, s.mlc.peers.get k = some q → q.node = n → (∀ j < k, ∀ y, s.mlc.peers.get j = some y → y.node ≠ n) →
         s.hopMac c = some q.mac) ∧
       ((∀ k q, s.mlc.peers.get k = some q → q.node ≠ n) → s.hopMac c = none)))

/-- The deficit round (R77, R78) over LIVE, NORMAL, BULK and UPDATE, visit by visit. An empty class's deficit becomes 0
and the pointer moves on. A class that waits gets its quantum once a visit, by the quantum-added flag; its head goes
exactly when its cost is at most the deficit, which is charged, or becomes 0 with the queue empty, the pointer staying
and the flag true; else the pointer moves on, the flag false and the deficit kept. The round repeats the visit until one
chooses a copy. It chooses a copy whenever one of its classes has one, every quantum being at least 1 and no cost above
17384 (R68): the copy chosen is the head of its class's queue, and no other queue changes. -/
def Obligations.RoundAlwaysChoosesAHead : Prop :=
  (drrClass 0 = .live ∧ drrClass 1 = .normal ∧ drrClass 2 = .bulk ∧ drrClass 3 = .update) ∧
  (∀ x : Port,
    let next := fun d : Nat => { x with
      deficits := put x.deficits x.pointer d, pointer := x.pointer + 1, quantumAdded := false }
    let credit := x.deficits.get x.pointer + if x.quantumAdded then 0 else x.config.quanta.get x.pointer
    (x.queue (drrClass x.pointer) = [] → x.drrVisit = (next 0, none)) ∧
    (∀ c rest, x.queue (drrClass x.pointer) = c :: rest →
      (c.cost ≤ credit → x.drrVisit = ({ x with
        queues := put x.queues (classIx (drrClass x.pointer)) rest
        deficits := put x.deficits x.pointer (if rest = [] then 0 else credit - c.cost)
        quantumAdded := true }, some c)) ∧
      (credit < c.cost → x.drrVisit = (next credit, none)))) ∧
  (∀ (x : Port) (n : Nat),
    (x.drrVisit.2 ≠ none → Port.drrRound (n + 1) x = x.drrVisit) ∧
    (x.drrVisit.2 = none → Port.drrRound (n + 1) x = Port.drrRound n x.drrVisit.1)) ∧
  ∀ x : Port, (∀ k : Fin 4, 1 ≤ x.config.quanta.get k) → (∀ k : Fin 4, ∀ c ∈ x.queue (drrClass k), c.cost ≤ 17384) →
    (∃ k : Fin 4, x.queue (drrClass k) ≠ []) →
    ∃ (k : Fin 4) (c : Copy) (rest : List Copy), x.queue (drrClass k) = c :: rest ∧
      (Port.drrRound drrFuel x).2 = some c ∧
      (Port.drrRound drrFuel x).1.queues = put x.queues (classIx (drrClass k)) rest

/-! ## The Flow Classifier (chapter 3) -/

/-- SET_RULE and CLEAR_RULE (R60, R61): the rule takes its new fields, or its clear values, with hit count 0, and in
the same step every flow record the rule classed is removed and counted in the answer. A rule index above 63, an
undefined stage, family, selector, response or class, an arm group above 7, a profile selector above 15 and the class
CTRL are BAD_PARAM; every other field is the parameter's, the prefix, the lengths and the arm time clamped. That the
address value stands most significant byte first is the model's choice: log entry 29; so is that bits 7 to 3 of the
flags byte and the selector bytes a selector kind does not use are ignored: log entry 26. SET_FLOW_TIMES (R62)
replaces the five idle limits, each clamped to 1..3600 seconds, removes no record, and answers the five limits.
SET_QUIET (R65) sets the quiet time, clamped to 1..60 minutes, and answers it, the game-quiet condition under it and
the time since the last GAME frame. -/
def Obligations.RulesAndFlowSettingsAreWritten : Prop :=
  (let swept := fun (s : State) (i : Fin 64) (r : Rule) => { s with flc := { s.flc with
     rules := put s.flc.rules i r
     sets := s.flc.sets.map fun (v : Vector (Option Flow) 4) => v.map fun (w : Option Flow) => w.filter fun (f : Flow) => !(f.origin == Origin.rule i) } }
   let answer := fun (s : State) (i : Fin 64) => [BitVec.ofNat 8 i.val] ++ le 2 (s.countFlows fun f => f.origin == .rule i)
   (∀ s o, s.freshHead .flc 0x20 = some o →
     let bad := 63 < o.u8 0 ∨ 1 < o.u8 2 ∨ 7 < o.u8 3 ∨ 2 < o.u8 6 ∨ 2 < o.u8 35 ∨ (o.u8 35 = 2 ∧ 15 < o.u8 36) ∨
       2 < o.u8 42 ∨ o.u8 43 = 0 ∨ 5 < o.u8 43
     (bad → exec .setRule s = .next (s.refuse o .badParam)) ∧
     (∀ (i : Fin 64) (selector : Selector) (cls : TClass), ¬bad → i.val = o.u8 0 → (classIx cls).val = o.u8 43 →
       (o.u8 35 = 0 ∧ selector = .any) ∨ (o.u8 35 = 1 ∧ selector = .mac (macAt o.params 36)) ∨
         (∃ p : ProfIx, o.u8 35 = 2 ∧ p.val = o.u8 36 ∧ selector = .profile p) →
       let flags := byteAt o.params 44
       let r : Rule :=
         { enabled := o.flag 1, stage := if o.u8 2 = 0 then .one else .two, armGroup := byteAt o.params 3
           protoValue := byteAt o.params 4, protoMask := byteAt o.params 5
           family := if o.u8 6 = 0 then .any else if o.u8 6 = 1 then .ipv4 else .ipv6
           addr := BitVec.ofNat 128 (beAt o.params 7 16)
           prefixLen := min (if o.u8 6 = 0 then 0 else if o.u8 6 = 1 then 32 else 128) (o.u8 23)
           portLow := BitVec.ofNat 16 (o.u16 24), portHigh := BitVec.ofNat 16 (o.u16 26), invert := o.flag 28
           dscpValue := BitVec.ofNat 6 (o.u8 29), dscpMask := BitVec.ofNat 6 (o.u8 30)
           lengthLow := min 2048 (max 60 (o.u16 31)), lengthHigh := min 2048 (max 60 (o.u16 33))
           selector := selector
           response := if o.u8 42 = 0 then .terminal else if o.u8 42 = 1 then .pass else .drop
           cls := cls, listed := flags.getLsbD 0, report := flags.getLsbD 1, arm := flags.getLsbD 2
           armTime := min 600 (max 1 (o.u16 45)), hits := 0 }
       exec .setRule s = .next ((swept s i r).accept o (answer s i)))) ∧
   (∀ s o, s.freshHead .flc 0x21 = some o →
     (63 < o.u8 0 → exec .clearRule s = .next (s.refuse o .badParam)) ∧
     (∀ i : Fin 64, i.val = o.u8 0 → exec .clearRule s = .next ((swept s i Rule.clear).accept o (answer s i))))) ∧
  (∀ s o, s.freshHead .flc 0x22 = some o →
    let limit := fun k => min 3600 (max 1 (o.u16 (2 * k)))
    exec .setFlowTimes s = .next (State.accept
      { s with flc := { s.flc with limits := #v[limit 0, limit 1, limit 2, limit 3, limit 4] } } o
      (le 2 (limit 0) ++ le 2 (limit 1) ++ le 2 (limit 2) ++ le 2 (limit 3) ++ le 2 (limit 4)))) ∧
  (∀ s o, s.freshHead .flc 0x23 = some o →
    let q := min 60 (max 1 (o.u8 0))
    let quiet := match s.flc.lastGame with
      | none => true
      | some t => pastBy s.sck.ms t (q * 60000)
    let since := match s.flc.lastGame with
      | none => 0xFFFFFFFF
      | some t => age s.sck.ms t
    exec .setQuiet s = .next (State.accept { s with flc := { s.flc with quiet := q } } o
      ([BitVec.ofNat 8 q, flagByte quiet] ++ le 4 since))) ∧
  (∀ (s : State) (p : Flow → Bool), s.countFlows p =
    ((s.flc.sets.toList.map fun (v : Vector (Option Flow) 4) => v.toList.filterMap id).flatten.filter p).length)

/-! ## Station records (chapter 5) and allowances (chapter 6) -/

/-- ADMIT_STATION (R86, R87, R107): bad parameters are BAD_PARAM; a MAC of a RESERVED record binds it; one of a moving
record is AGAIN, of any other DUPLICATE with its state; with no free index NO_ROOM and with the radio off
REFUSED_STATE; else the lowest free index takes a new ACTIVE record with its spent flag and gate computed; one that
begins spent gives ALLOWANCE_SPENT and tells its profile, and its profile is told of the member. A bind (R145): the
record is ACTIVE on the radio with the rate and, where one is given, the profile, its average unset and its query
times as new; its profile, spent flag and gate are told and computed, the CONFIRM exchange and the settle wait begin,
CONFIRM is sent to the origin and STATION_ARRIVED given. The body of ALLOWANCE_SPENT ends with a byte that says
whether the day is stamped, beside what R107 lists: a day has that flag (R167), and its place after the day is the
model's choice: log entry 10. -/
def Obligations.AdmissionCreatesBindsOrRefuses : Prop :=
  (∀ s o, s.freshHead .stt 0x30 = some o →
    let m := macAt o.params 0
    (¬(o.u8 6 = 2 ∨ o.u8 6 = 3) ∨ (15 < o.u8 7 ∧ o.u8 7 ≠ 255) ∨ groupMac m = true ∨ m = 0 →
      exec .admitStation s = .next (s.refuse o .badParam)) ∧
    (∀ (radio : Radio) (profile : Option ProfIx), groupMac m = false → m ≠ 0 →
      o.u8 6 = (portIx (radioPort radio)).val → profileField (o.u8 7) = some profile →
      let rate := min 4800 (max 1 (o.u16 8))
      let used := if o.flag 12 then min 1440 (o.u16 10) else 0
      (∀ i, s.findMac m = some i →
        ((s.sta i).state = .reserved → exec .admitStation s =
          let t := s.bind i radio profile rate
          .next (t.accept o [BitVec.ofNat 8 i.val, BitVec.ofNat 8 (t.sta i).gate.code, flagByte (t.sta i).spent, 1])) ∧
        ((s.sta i).state = .moving ∨ (s.sta i).state = .withdrawing → exec .admitStation s = .next (s.refuse o .again)) ∧
        ((s.sta i).state = .active ∨ (s.sta i).state = .watched ∨ (s.sta i).state = .offering ∨ (s.sta i).state = .left →
          exec .admitStation s =
            .next (s.finish o.id .duplicate (BitVec.ofNat 8 (s.sta i).state.code) [BitVec.ofNat 8 i.val]))) ∧
      (s.findMac m = none → s.freeIndex = none → exec .admitStation s = .next (s.refuse o .noRoom)) ∧
      (∀ i, s.findMac m = none → s.freeIndex = some i →
        ((s.port (radioPort radio)).enabled = false → exec .admitStation s = .next (s.refuse o .refusedState)) ∧
        ((s.port (radioPort radio)).enabled = true → ∃ t : State, exec .admitStation s =
            .next (t.accept o [BitVec.ofNat 8 i.val, BitVec.ofNat 8 (t.sta i).gate.code, flagByte (t.sta i).spent]) ∧
          let allowance := match profile with
            | some p => if (s.profile p).inUse then (s.profile p).allowances.get s.sck.weekday else 1440
            | none => 1440
          let spent : Bool := decide (s.sck.set = true ∧ allowance < 1440 ∧ allowance ≤ used)
          let r : Station := { Station.free with
            state := .active, mac := m, radio := radio, profile := profile, rate := rate, nextQuery := s.sck.ms
            used := used, day := if s.sck.set then some s.sck.day else none }
          t.sta i = { r with spent := spent, gate := s.gateOf profile spent } ∧
          t.pfe = { s.pfe with triggers := s.pfe.triggers ++ match profile with
            | some p => (if spent then [(⟨p, .spentChange, none, none⟩ : Trigger)] else []) ++ [⟨p, .membership, none, none⟩]
            | none => [] } ∧
          t.exu = { s.exu with arrivals := s.exu.arrivals ++ if spent then [⟨.allowanceSpent, i.val, s.sck.ms,
            [match profile with
              | some p => BitVec.ofNat 8 p.val
              | none => 255] ++ le 2 used ++ le 2 allowance ++ le 2 0 ++ [BitVec.ofNat 8 s.sck.weekday.val]
              ++ le 4 (r.day.getD 0).toNat ++ [flagByte r.day.isSome]⟩] else [] } ∧
          (∀ j, j ≠ i → t.sta j = s.sta j) ∧
          t.frp = { s.frp with addresses := s.frp.addresses.map fun (e : Option AddrEntry) => e.filter fun a => !(a.mac == m) } ∧
          t.flc = s.flc ∧ t.sck = s.sck ∧ t.mlc = s.mlc ∧ t.hoc = s.hoc ∧ t.ups = s.ups ∧ t.fls = s.fls)))) ∧
  (∀ (s : State) (i : StaIx) (radio : Radio) (profile : Option ProfIx) (rate : Nat) (h : Handoff),
    (s.sta i).handoff = some h →
    let r := s.sta i
    let now := match profile with
      | some p => some p
      | none => r.profile
    let t := s.setSta i { r with
      state := .active, radio := radio, profile := now, rate := rate, signal := none, runOn := 0, requery := 2
      nextQuery := s.sck.ms
      handoff := some { h with tries := 1, wait := some (s.sck.ms + 100), deadline := s.sck.ms + 2000 } }
    let u := (((t.membership now).recomputeSpent i).recomputeGate i).sendTo h.peer kConfirm (h.id.beBytes ++ macBytes r.mac)
    s.bind i radio profile rate = { u with exu := { u.exu with
      arrivals := u.exu.arrivals ++ [⟨.stationArrived, i.val, s.sck.ms, [BitVec.ofNat 8 h.peer.val] ++ h.id.leBytes⟩] } }) ∧
  (∀ s : State,
    let free := fun i => (s.sta i).state = .free
    (∀ i, s.freeIndex = some i ↔ free i ∧ ∀ j < i, ¬free j) ∧ (s.freeIndex = none ↔ ∀ i, ¬free i) ∧
    ∀ i r, s.setSta i r = { s with stt := { s.stt with recs := put s.stt.recs i r } })

/-- DEPART_STATION (R93): a record in ACTIVE or WATCHED is freed, one in OFFERING, MOVING or WITHDRAWING is marked
departed, one in LEFT stays, one in RESERVED is REFUSED_STATE, and a MAC of no record NOT_FOUND. Freeing a record
(R52, R71, R78, R84, R94): it becomes FREE; the queued copies that carry its index go and the others stay in their
order, a DRR class left empty having deficit 0; the buffers of those copies and of its held frames return to the pool;
its flow records go and those of other stations stay; its profile gets a membership notice if the record was one of its
stations. No other record, nothing else of a port, nothing else of the profiles, and nothing of the exchange, the clock,
the mesh, the handoff or the stager changes. -/
def Obligations.DepartureFreesTheRecordAndLeavesNothing : Prop :=
  (∀ s o, s.freshHead .stt 0x31 = some o →
     (s.findMac (macAt o.params 0) = none → exec .departStation s = .next (s.refuse o .notFound)) ∧
     (∀ i, s.findMac (macAt o.params 0) = some i →
       let r := s.sta i
       (r.state = .active ∨ r.state = .watched → exec .departStation s = .next ((s.freeStation i).accept o [])) ∧
       (r.state = .offering ∨ r.state = .moving ∨ r.state = .withdrawing → exec .departStation s =
         .next ((s.setSta i { r with departed := true }).accept o [])) ∧
       (r.state = .left → exec .departStation s = .next (s.accept o [])) ∧
       (r.state = .reserved → exec .departStation s = .next (s.refuse o .refusedState)))) ∧
  (∀ (s : State) (i : StaIx),
     let t := s.freeStation i
     t.sta i = Station.free ∧ (∀ j, j ≠ i → t.sta j = s.sta j) ∧
     (∀ p c, ∀ x ∈ (t.port p).queue c, x.station ≠ some i) ∧
     (∀ p c, (t.port p).queue c = ((s.port p).queue c).filter fun x => !(x.station == some i)) ∧
     (∀ k w f, (t.flc.sets.get k).get w = some f → f.station ≠ some i) ∧
     (∀ k w, (t.flc.sets.get k).get w = ((s.flc.sets.get k).get w).filter fun f => !(f.station == some i)) ∧
     (∀ p, t.port p = { s.port p with
       queues := (t.port p).queues
       deficits := Vector.ofFn fun k => if (t.port p).queue (drrClass k) = [] then 0 else (s.port p).deficits.get k }) ∧
     (let queued := fun u : State => (PortId.all.map fun p => ((u.port p).queues.toList.map List.length).sum).sum
      t.frp.free + queued t = s.frp.free + queued s + ((s.sta i).held.getD []).length) ∧
     (let member := (s.sta i).state = .active ∨ (s.sta i).state = .watched ∨ (s.sta i).state = .offering ∨
        (s.sta i).state = .moving ∨ (s.sta i).state = .withdrawing
      (∀ p, (s.sta i).profile = some p → member →
        t.pfe = { s.pfe with triggers := s.pfe.triggers ++ [⟨p, .membership, none, none⟩] }) ∧
      ((s.sta i).profile = none ∨ ¬member → t.pfe = s.pfe)) ∧
     t.flc = { s.flc with sets := t.flc.sets } ∧ t.stt = { s.stt with recs := t.stt.recs } ∧
     (∀ p, (t.port p).config = (s.port p).config ∧ (t.port p).bucket = (s.port p).bucket ∧
       (t.port p).onLink = (s.port p).onLink ∧ (t.port p).stats = (s.port p).stats) ∧
     t.exu = s.exu ∧ t.sck = s.sck ∧ t.mlc = s.mlc ∧ t.hoc = s.hoc ∧ t.ups = s.ups ∧ t.fls = s.fls ∧
     t.pfe.profiles = s.pfe.profiles ∧ t.frp.addresses = s.frp.addresses)

/-- SET_STATION (R88): a bad index or profile is BAD_PARAM, a FREE record NOT_FOUND, one in a handoff, RESERVED or
LEFT AGAIN; else profile, rate, used minutes and bonus take their clamped values, a change of profile is told to both
profiles, and spent flag and gate are computed anew. GRANT_BONUS (R108) for a station: a FREE record is NOT_FOUND, one
that is moving, RESERVED or LEFT AGAIN, one with profile NONE or a profile not in use REFUSED_STATE, and one under a
full lock LOCKED; else the minutes, 1..720, are added to its bonus up to 720, its spent flag is recomputed when that
changed it, and its profile is evaluated. For a profile, one not in use is REFUSED_STATE and a full lock LOCKED; else
every ACTIVE or WATCHED record of it is granted and the moving ones are counted. -/
def Obligations.StationsAreSetAndGrantedBonus : Prop :=
  (∀ s o, s.freshHead .stt 0x32 = some o →
     (127 < o.u8 0 ∨ (15 < o.u8 1 ∧ o.u8 1 ≠ 255) → exec .setStation s = .next (s.refuse o .badParam)) ∧
     (∀ (i : StaIx) (profile : Option ProfIx), o.u8 0 = i.val → profileField (o.u8 1) = some profile →
       let r := s.sta i
       (r.state = .free → exec .setStation s = .next (s.refuse o .notFound)) ∧
       (r.state ≠ .free → r.state ≠ .active → r.state ≠ .watched → exec .setStation s = .next (s.refuse o .again)) ∧
       (r.state = .active ∨ r.state = .watched → exec .setStation s =
         let t := s.setSta i { r with
           profile := profile, rate := min 4800 (max 1 (o.u16 2)), used := min 1440 (o.u16 4), bonus := min 720 (o.u16 6) }
         let u := if r.profile = profile then t else (t.membership r.profile).membership profile
         let v := (u.recomputeSpent i).recomputeGate i
         .next (v.accept o [BitVec.ofNat 8 i.val, BitVec.ofNat 8 (v.sta i).gate.code, flagByte (v.sta i).spent])))) ∧
  (∀ n : Nat, (n = 255 → profileField n = some none) ∧ (∀ p : ProfIx, n = p.val → profileField n = some (some p)) ∧
    (15 < n → n ≠ 255 → profileField n = none)) ∧
  (∀ s : State, s.membership none = s ∧ ∀ p, s.membership (some p) =
    { s with pfe := { s.pfe with triggers := s.pfe.triggers ++ [⟨p, .membership, none, none⟩] } }) ∧
  (∀ s o, s.freshHead .stt 0x33 = some o →
     let minutes := min 720 (max 1 (o.u16 2))
     let granted := fun (t : State) (i : StaIx) =>
       let b := min 720 ((t.sta i).bonus + minutes)
       if b = (t.sta i).bonus then t else (t.setSta i { t.sta i with bonus := b }).recomputeSpent i
     let told := fun (t : State) (p : ProfIx) =>
       { t with pfe := { t.pfe with triggers := t.pfe.triggers ++ [(⟨p, .grant, none, none⟩ : Trigger)] } }
     (1 < o.u8 0 ∨ (o.u8 0 = 0 ∧ 127 < o.u8 1) ∨ (o.u8 0 = 1 ∧ 15 < o.u8 1) →
       exec .grantBonus s = .next (s.refuse o .badParam)) ∧
     (∀ i : StaIx, o.u8 0 = 0 → o.u8 1 = i.val →
       let r := s.sta i
       let serves := r.state = .active ∨ r.state = .watched
       (r.state = .free → exec .grantBonus s = .next (s.refuse o .notFound)) ∧
       (r.state ≠ .free → ¬serves → exec .grantBonus s = .next (s.refuse o .again)) ∧
       (serves → (∀ p, r.profile = some p → (s.profile p).inUse = false) →
         exec .grantBonus s = .next (s.refuse o .refusedState)) ∧
       (∀ p, serves → r.profile = some p → (s.profile p).inUse = true →
         ((s.profile p).lock = .fullLocked → exec .grantBonus s = .next (s.refuse o .locked)) ∧
         ((s.profile p).lock ≠ .fullLocked → exec .grantBonus s =
           let t := told (granted s i) p
           .next (t.accept o ([1, 0] ++ le 2 (t.sta i).bonus ++ [flagByte (t.sta i).spent]))))) ∧
     (∀ p : ProfIx, o.u8 0 = 1 → o.u8 1 = p.val →
       let counted := fun (states : List StaState) => BitVec.ofNat 8
         (s.stt.recs.toList.filter fun r => states.contains r.state && r.profile == some p).length
       let each := (List.finRange 128).foldl (fun t i => if [StaState.active, .watched].contains (t.sta i).state &&
         (t.sta i).profile == some p then granted t i else t) s
       ((s.profile p).inUse = false → exec .grantBonus s = .next (s.refuse o .refusedState)) ∧
       ((s.profile p).inUse = true → (s.profile p).lock = .fullLocked → exec .grantBonus s = .next (s.refuse o .locked)) ∧
       ((s.profile p).inUse = true → (s.profile p).lock ≠ .fullLocked → exec .grantBonus s =
         .next ((told each p).accept o [counted [.active, .watched], counted [.offering, .moving, .withdrawing]]))))

/-- SET_CLOCK (R101): a field out of range is BAD_PARAM; else the calendar is set with the fraction of its second 0. A
later day on a clock that was set gives a day rollover to stations and profiles; any other setting stamps the
unstamped records when the clock was unset, and gives every profile a clock change. In every case the spent flag of
every non-FREE record is then recomputed. That a boundary reached and not yet given goes with the old calendar is the
model's choice: log entry 14. CLOCK_INFO (R102) answers the clock as it stands. A minute event (R98, R99, R100): the
calendar advances a minute, at midnight with the day and the weekday, and the event reaches the stations, the profiles
(one evaluation of each) and the stager, each with the calendar after the advance and the millisecond time. While the
clock is unset the unset minute does the same without a calendar. That the fields pass a boundary in the step that
gives its event, and that a trigger for all profiles is one waiting entry for each in number order, are the model's
choices: log entries 16 and 15. -/
def Obligations.ClockIsSetReadAndAdvanced : Prop :=
  (∀ s o, s.freshHead .sck 0x40 = some o →
    (6 < o.u8 4 ∨ 1439 < o.u16 5 ∨ 59 < o.u8 7 → exec .setClock s = .next (s.refuse o .badParam)) ∧
    (∀ weekday : Fin 7, weekday.val = o.u8 4 → o.u16 5 ≤ 1439 → o.u8 7 ≤ 59 →
      let day : Word := BitVec.ofNat 32 (o.u32 0)
      let t := { s with sck := { s.sck with
        set := true, day := day, weekday := weekday, minute := o.u16 5, second := o.u8 7, phase := 0
        minuteDue := false, unsetDue := false } }
      let told := fun (u : State) (c : Cause) => { u with pfe := { u.pfe with
        triggers := u.pfe.triggers ++ (List.finRange 16).map fun p => (⟨p, c, none, none⟩ : Trigger) } }
      (s.sck.set = true → s.sck.day < day → exec .setClock s =
        let u := told { t with stt := { t.stt with minutes := t.stt.minutes ++ [.setRollover day] } } .setRollover
        .next (u.recomputeAllSpent.accept o ([1, 0] ++ le 4 s.sck.day.toNat))) ∧
      (s.sck.set = true → ¬s.sck.day < day → exec .setClock s =
        .next ((told t .clockChange).recomputeAllSpent.accept o ([0, 0] ++ le 4 s.sck.day.toNat))) ∧
      (s.sck.set = false → exec .setClock s =
        let u := { t with stt := { t.stt with recs := t.stt.recs.map fun (r : Station) =>
          if r.state ≠ StaState.free ∧ r.day = none then { r with day := some day } else r } }
        .next ((told u .clockChange).recomputeAllSpent.accept o ([0, 1] ++ le 4 0))))) ∧
  (∀ s o, s.freshHead .sck 0x41 = some o → exec .clockInfo s = .next (s.accept o
    ((if s.sck.set then [1] ++ le 4 s.sck.day.toNat ++ [BitVec.ofNat 8 s.sck.weekday.val] ++ le 2 s.sck.minute
        ++ [BitVec.ofNat 8 s.sck.second]
      else [0, 0, 0, 0, 0, 0, 0, 0, 0]) ++ le 4 s.sck.ms.toNat))) ∧
  (let given := fun (s : State) (k : MinuteKind) (c : Cause) (e : ClockEvent) =>
     { s with
       stt := { s.stt with minutes := s.stt.minutes ++ [k] }
       pfe := { s.pfe with triggers := s.pfe.triggers ++ (List.finRange 16).map fun p => ⟨p, c, some e, none⟩ }
       ups := { s.ups with minutes := s.ups.minutes ++ [e] } }
   (∀ s, s.sck.minuteDue = true → s.sck.minute < 1439 → exec .minuteEvent s =
     let e : ClockEvent := ⟨some ⟨s.sck.day, s.sck.weekday, s.sck.minute + 1, 0⟩, s.sck.ms⟩
     .next (given { s with sck := { s.sck with minute := s.sck.minute + 1, second := 0, minuteDue := false } }
       (.minute e) .minute e)) ∧
   (∀ s, s.sck.minuteDue = true → s.sck.minute = 1439 → exec .minuteEvent s =
     let c : Calendar := ⟨s.sck.day + 1, s.sck.weekday + 1, 0, 0⟩
     .next (given { s with sck := { s.sck with
         minute := 0, second := 0, minuteDue := false, day := s.sck.day + 1, weekday := s.sck.weekday + 1 } }
       (.rollover c s.sck.ms) .rollover ⟨some c, s.sck.ms⟩)) ∧
   (∀ s, s.sck.unsetDue = true → exec .unsetMinuteEvent s =
     .next (given { s with sck := { s.sck with unsetDue := false, unsetCount := 0 } }
       (.minute ⟨none, s.sck.ms⟩) .minute ⟨none, s.sck.ms⟩)))

/-- A minute at the Station Table (R105): each record whose bytes reached its profile's threshold counts a used minute
up to 1440, every record's bytes return to 0, and the spent flags of the records that counted are recomputed. A day
rollover (R106) gives every non-FREE record used and bonus 0 and the new day, its bytes kept only when SET_CLOCK gave
it, and recomputes all. A recomputed spent flag (R107): on a clock that is set a record whose allowance is below 1440
is spent when its used minutes reach allowance and bonus. A flag that does not change leaves everything; one that does
is written with the new gate and told to the record's profile, and one that becomes true gives ALLOWANCE_SPENT, whose
body ends with a byte that says whether the day is stamped, beside what R107 lists: a day has that flag (R167), and
its place after the day is the model's choice: log entry 10. No other record, port, clock, profile record, mesh or
stager state changes. A state-change or use-change notice recomputes the gate of every non-FREE record of its profile
(R91, R92): OPEN without a profile in use, else the level of the program state the profile stands in, lowered to the
spent level for a spent record; an allowance notice recomputes their spent flags. -/
def Obligations.MinutesAndNoticesReachTheRecords : Prop :=
  (∀ s e rest, s.stt.minutes = .minute e :: rest → exec .activeMinuteCount s =
    let counts := fun r : Station => decide (s.sck.set = true ∧ r.state.serving = true ∧
      ∃ p, r.profile = some p ∧ (s.profile p).inUse = true ∧ (s.profile p).threshold ≤ r.bytes)
    .next (((List.finRange 128).filter fun i => counts (s.sta i) && decide ((s.sta i).used < 1440)).foldl
      State.recomputeSpent { s with stt := { s.stt with
        minutes := rest
        recs := s.stt.recs.map fun (r : Station) => if r.state = .free then r
          else { r with used := if counts r then min 1440 (r.used + 1) else r.used, bytes := 0 } } })) ∧
  (∀ s c time rest, s.stt.minutes = .rollover c time :: rest → exec .dayRollover s =
    .next (State.recomputeAllSpent { s with stt := { s.stt with
      minutes := rest
      recs := s.stt.recs.map fun (r : Station) => if r.state = .free then r
        else { r with used := 0, bonus := 0, day := some c.day, bytes := 0 } } })) ∧
  (∀ s d rest, s.stt.minutes = .setRollover d :: rest → exec .dayRollover s =
    .next (State.recomputeAllSpent { s with stt := { s.stt with
      minutes := rest
      recs := s.stt.recs.map fun (r : Station) => if r.state = .free then r
        else { r with used := 0, bonus := 0, day := some d } } })) ∧
  (∀ s : State, s.recomputeAllSpent = (List.finRange 128).foldl (fun t i =>
    if (t.sta i).state = .free then t else t.recomputeSpent i) s) ∧
  (∀ (s : State) (i : StaIx),
     let r := s.sta i
     let allowance := match r.profile with
       | some p => if (s.profile p).inUse then (s.profile p).allowances.get s.sck.weekday else 1440
       | none => 1440
     let spent : Prop := s.sck.set = true ∧ allowance < 1440 ∧ allowance + r.bonus ≤ r.used
     let t := s.recomputeSpent i
     ((t.sta i).spent = true ↔ spent) ∧ ((r.spent = true ↔ spent) → t = s) ∧
     (¬(r.spent = true ↔ spent) →
       t.sta i = { r with spent := !r.spent, gate := s.gateOf r.profile (!r.spent) } ∧
       t.pfe.triggers = s.pfe.triggers ++ (match r.profile with
         | some p => [⟨p, .spentChange, none, none⟩]
         | none => []) ∧
       t.exu.arrivals = s.exu.arrivals ++ if r.spent then [] else [⟨.allowanceSpent, i.val, s.sck.ms,
         [match r.profile with
           | some p => BitVec.ofNat 8 p.val
           | none => 255] ++ le 2 r.used ++ le 2 allowance ++ le 2 r.bonus ++ [BitVec.ofNat 8 s.sck.weekday.val]
           ++ le 4 (r.day.getD 0).toNat ++ [flagByte r.day.isSome]⟩]) ∧
     (∀ j, j ≠ i → t.sta j = s.sta j) ∧
     t = { s with
       exu := { s.exu with arrivals := t.exu.arrivals }
       stt := { s.stt with recs := t.stt.recs }
       pfe := { s.pfe with triggers := t.pfe.triggers } }) ∧
  (let holds := fun (p : ProfIx) (r : Station) => decide (r.state ≠ .free ∧ r.profile = some p)
   let taken := fun (s : State) (rest : List Notice) => { s with stt := { s.stt with notices := rest } }
   (∀ s p rest, s.stt.notices = .stateChange p :: rest ∨ s.stt.notices = .useChange p :: rest →
     exec .stateChangeNotice s = .next ((taken s rest).eachSta (holds p) State.recomputeGate)) ∧
   (∀ s p rest, s.stt.notices = .allowance p :: rest →
     exec .allowanceNotice s = .next ((taken s rest).eachSta (holds p) State.recomputeSpent)) ∧
   (∀ (s : State) (i : StaIx),
     let r := s.sta i
     (∀ p, r.profile = some p → (s.profile p).inUse = true →
       let level := ((s.profile p).states.get (s.profile p).current).level
       let low := ((s.profile p).states.get (s.profile p).current).spentLevel
       s.recomputeGate i = s.setSta i { r with
         gate := if r.spent = true ∧ level.code < low.code then low else level }) ∧
     (r.profile = none ∨ (∃ p, r.profile = some p ∧ (s.profile p).inUse = false) →
       s.recomputeGate i = s.setSta i { r with gate := .opened }))) ∧
  (∀ (s : State) (spent : Bool), s.gateOf none spent = .opened ∧ ∀ p : ProfIx,
    let g := (s.profile p).states.get (s.profile p).current
    s.gateOf (some p) spent = if (s.profile p).inUse = false then .opened
      else if spent = true ∧ g.level.code < g.spentLevel.code then g.spentLevel else g.level) ∧
  (∀ (s : State) (p : Station → Bool) (f : State → StaIx → State),
    s.eachSta p f = (List.finRange 128).foldl (fun t i => if p (t.sta i) then f t i else t) s)

/-! ## The Profile Engine (chapter 7) -/

/-- SET_PROFILE (R110, R117, R122): a number above 15 or a window minute above 1439 is BAD_PARAM, a lock LOCKED; else
the profile is in use with its clamped allowances and threshold and its windows, the stations are told, and its
evaluation gives the answer. CLEAR_PROFILE (R111) takes a profile out of use, tells the stations and answers with the
state it stands in; one not in use is answered the same without effect, the model's choice: log entry 10. SET_PROGRAM
(R113) replaces a profile's program and RESTART_PROFILE (R121) returns it to its initial state; the profile then stands
in its initial state, with PROFILE_STATE and a state-change notice when that is another one, and a profile in use is
evaluated before the answer. A lock refuses the first, a full lock the second. A program is valid when it has 1 to 6
states, its initial state is one of them, its levels are defined, and each enabled transition has a defined condition
and leads to one of its states; bits 6..4 of a transition byte are not judged, the model's choice: log entry 26. The
order of two notices of one step, allowance before use-change in SET_PROFILE and use-change before allowance in
CLEAR_PROFILE, is the model's choice too: log entry 33. -/
def Obligations.ProfilesAndProgramsAreWritten : Prop :=
  (∀ s o, s.freshHead .pfe 0x50 = some o →
    let window := fun k : Fin 4 => (⟨BitVec.ofNat 7 (o.u8 (19 + 5 * k.val)), o.u16 (20 + 5 * k.val),
      o.u16 (22 + 5 * k.val)⟩ : Window)
    let inDay := ∀ k, (window k).start ≤ 1439 ∧ (window k).stop ≤ 1439
    (15 < o.u8 0 ∨ ¬inDay → exec .setProfile s = .next (s.refuse o .badParam)) ∧
    (∀ p : ProfIx, o.u8 0 = p.val → inDay →
      let x := s.profile p
      (x.lock ≠ .unlocked → exec .setProfile s = .next (s.refuse o .locked)) ∧
      (x.lock = .unlocked → exec .setProfile s =
        let t := s.setProfile p { x with
          inUse := true
          allowances := Vector.ofFn fun k : Fin 7 => min 1440 (o.u16 (1 + 2 * k.val))
          threshold := min 1048575 (max 1 (o.u32 15))
          windows := Vector.ofFn window }
        let u := t.notice (.allowance p)
        let v := if x.inUse then u else u.notice (.useChange p)
        .next ((v.mark o.id .working).trigger
          ⟨p, .setProfile, none, some ⟨o.id, [BitVec.ofNat 8 p.val], [flagByte (!x.inUse)]⟩⟩)))) ∧
  (∀ s o, s.freshHead .pfe 0x52 = some o →
    (15 < o.u8 0 → exec .clearProfile s = .next (s.refuse o .badParam)) ∧
    (∀ p : ProfIx, o.u8 0 = p.val →
      let x := s.profile p
      let answer := [BitVec.ofNat 8 p.val, BitVec.ofNat 8 x.current.val]
      (x.lock ≠ .unlocked → exec .clearProfile s = .next (s.refuse o .locked)) ∧
      (x.lock = .unlocked → x.inUse = false → exec .clearProfile s = .next (s.accept o answer)) ∧
      (x.lock = .unlocked → x.inUse = true → exec .clearProfile s = .next
        (((((s.setProfile p { x with inUse := false }).notice (.useChange p)).notice (.allowance p)).accept o answer))))) ∧
  (∀ s o, s.freshHead .pfe 0x51 = some o →
    (15 < o.u8 0 → exec .setProgram s = .next (s.refuse o .badParam)) ∧
    (∀ p : ProfIx, o.u8 0 = p.val →
      let x := s.profile p
      (x.lock ≠ .unlocked → exec .setProgram s = .next (s.refuse o .locked)) ∧
      (x.lock = .unlocked → programOf o = none → exec .setProgram s = .next (s.refuse o .badParam)) ∧
      (∀ count initial states, x.lock = .unlocked → programOf o = some (count, initial, states) → exec .setProgram s =
        .next ((s.toInitial p { x with count := count, initial := initial, states := states } .setProgram).thenEvaluate o p
          .setProgram [BitVec.ofNat 8 p.val] [])))) ∧
  (∀ o : Order,
    let count := o.u8 1
    let enabled := fun (n k : Nat) => (byteAt o.params (5 + 10 * n + 2 * k)).getLsbD 7
    let cond := fun (n k : Nat) => o.u8 (5 + 10 * n + 2 * k) % 16
    let dest := fun (n k : Nat) => o.u8 (6 + 10 * n + 2 * k)
    let valid := 1 ≤ count ∧ count ≤ 6 ∧ o.u8 2 < count ∧ ∀ n < count, o.u8 (3 + 10 * n) ≤ 3 ∧ o.u8 (4 + 10 * n) ≤ 3 ∧
      ∀ k < 4, enabled n k = true → cond n k ≤ 12 ∧ dest n k < count
    (¬valid → programOf o = none) ∧
    (valid → ∃ initial states, programOf o = some (count, initial, states) ∧ initial.val = o.u8 2 ∧
      ∀ n : Fin 6, (count ≤ n.val → states.get n = ProgState.clear) ∧
        (n.val < count → (states.get n).level.code = o.u8 (3 + 10 * n.val) ∧
          (states.get n).spentLevel.code = o.u8 (4 + 10 * n.val) ∧
          ∀ k : Fin 4,
            let t := (states.get n).transitions.get k
            (enabled n k = false → t = Transition.clear) ∧
            (enabled n k = true → t.enabled = true ∧ t.cond.code = cond n k ∧ t.dest.val = dest n k)))) ∧
  (∀ s o, s.freshHead .pfe 0x55 = some o →
    (15 < o.u8 0 → exec .restartProfile s = .next (s.refuse o .badParam)) ∧
    (∀ p : ProfIx, o.u8 0 = p.val →
      let x := s.profile p
      (x.lock = .fullLocked → exec .restartProfile s = .next (s.refuse o .locked)) ∧
      (x.lock ≠ .fullLocked → exec .restartProfile s =
        .next ((s.toInitial p x .restart).thenEvaluate o p .restart [BitVec.ofNat 8 p.val] [])))) ∧
  (∀ (s : State) (p : ProfIx) (x : Profile) (c : Cause),
    let y := { x with current := x.initial }
    let begun := x.states.get x.initial
    (x.initial = x.current → s.toInitial p x c = s.setProfile p y) ∧
    (x.initial ≠ x.current → s.toInitial p x c = { s with
      pfe := { s.pfe with profiles := put s.pfe.profiles p y }
      stt := { s.stt with notices := s.stt.notices ++ [.stateChange p] }
      exu := { s.exu with arrivals := s.exu.arrivals ++ [⟨.profileState, p.val, s.sck.ms,
        [BitVec.ofNat 8 x.initial.val, BitVec.ofNat 8 x.current.val, 0, BitVec.ofNat 8 c.code,
          BitVec.ofNat 8 begun.level.code, BitVec.ofNat 8 begun.spentLevel.code]⟩] } })) ∧
  (∀ (s : State) (o : Order) (p : ProfIx) (c : Cause) (before after : List Byte),
    ((s.profile p).inUse = true → s.thenEvaluate o p c before after =
      State.trigger (s.mark o.id .working) ⟨p, c, none, some ⟨o.id, before, after⟩⟩) ∧
    ((s.profile p).inUse = false → s.thenEvaluate o p c before after =
      s.accept o (before ++ [BitVec.ofNat 8 (s.profile p).current.val] ++ after))) ∧
  (∀ (s : State) (t : Trigger) (n : Notice),
    s.trigger t = { s with pfe := { s.pfe with triggers := s.pfe.triggers ++ [t] } } ∧
    s.notice n = { s with stt := { s.stt with notices := s.stt.notices ++ [n] } }) ∧
  (∀ (s : State) (p : ProfIx) (x : Profile),
    s.setProfile p x = { s with pfe := { s.pfe with profiles := put s.pfe.profiles p x } })

/-- PAUSE_PROFILE and RESUME_PROFILE (R120) set and clear the pause flag, a full lock refusing both, and the answer
tells whether the flag changed. RAISE_LOCK (R122) never lowers a lock: the level becomes the higher of the present and
the asked one. -/
def Obligations.PauseFlagAndLockLevel : Prop :=
  (∀ (s : State) (o : Order) (flag : Bool),
    let c : Instr := if flag then .pauseProfile else .resumeProfile
    s.freshHead .pfe (if flag then 0x53 else 0x54) = some o →
    (15 < o.u8 0 → exec c s = .next (s.refuse o .badParam)) ∧
    (∀ p : ProfIx, o.u8 0 = p.val →
      let x := s.profile p
      (x.lock = .fullLocked → exec c s = .next (s.refuse o .locked)) ∧
      (x.lock ≠ .fullLocked → exec c s = .next ((s.setProfile p { x with paused := flag }).thenEvaluate o p
        (if flag then .pause else .resume)
        [BitVec.ofNat 8 p.val, flagByte flag, flagByte (x.paused != flag)] [])))) ∧
  (∀ s o, s.freshHead .pfe 0x56 = some o →
    (15 < o.u8 0 ∨ 2 < o.u8 1 → exec .raiseLock s = .next (s.refuse o .badParam)) ∧
    (∀ (p : ProfIx) (asked : Lock), o.u8 0 = p.val → o.u8 1 = asked.code → ∃ level : Lock,
      level.code = max (s.profile p).lock.code asked.code ∧ exec .raiseLock s =
        .next ((s.setProfile p { s.profile p with lock := level }).accept o [BitVec.ofNat 8 level.code])))

/-- An evaluation (R115, R116, R117, R118, R119): it takes the trigger that reached the Profile Engine next: the oldest
of the way that a free value names, from the Station Table, the Schedule Clock or an order, where no order's trigger
stands before it, else the one given first; so a spent-change event of a rollover is taken before or after the
rollover's evaluation. Which ways may overtake one another is the model's choice: log entry 15. A profile in use moves
by the first enabled transition whose condition holds, the conditions keeping the values they had at the start, until
none holds or six moves are made. Each move gives PROFILE_STATE with the state reached, the state the evaluation began in and the
number of the move; a seventh that would follow gives PROFILE_CYCLE, and a changed state is told to the stations. An
order's evaluation then gives the answer with the state reached. The conditions (R114): a window by the calendar of
the event that caused the evaluation, else by the clock; the pause flag; the start of a day by the cause; and whether
a station of the profile is spent. That an unset minute's evaluation on a clock set meanwhile uses the clock's values is
the model's choice: log entry 14. -/
def Obligations.EvaluationMovesAtMostSixTimes : Prop :=
  (∀ s, s.pfe.triggers = [] → exec .evaluation s = .next s) ∧
  (∀ s t rest, nextTrigger s.freeWay s.pfe.triggers = some (t, rest) → exec .evaluation s =
    let u := { s with pfe := { s.pfe with triggers := rest, taken := s.pfe.taken + 1 } }
    let v := if (s.profile t.profile).inUse then u.evaluate t else u
    .next (match t.reply with
      | some r => v.finish r.order .ok 0 (r.before ++ [BitVec.ofNat 8 (v.profile t.profile).current.val] ++ r.after)
      | none => v)) ∧
  (∀ way : TriggerPath,
    let passed := fun x : Trigger => x.cause.path ≠ way ∧ x.cause.path ≠ .order
    (∀ before t after, t.cause.path = way → (∀ x ∈ before, passed x) →
      nextTrigger way (before ++ t :: after) = some (t, before ++ after)) ∧
    (∀ first rest, (∀ before t after, first :: rest = before ++ t :: after → t.cause.path = way →
      ∃ x ∈ before, ¬passed x) → nextTrigger way (first :: rest) = some (first, rest))) ∧
  (∀ c : Cause,
    (c.path = .clock ↔ c = .minute ∨ c = .rollover ∨ c = .setRollover ∨ c = .clockChange) ∧
    (c.path = .station ↔ c = .spentChange ∨ c = .membership ∨ c = .grant) ∧
    (c.path = .order ↔ c = .setProfile ∨ c = .setProgram ∨ c = .pause ∨ c = .resume ∨ c = .restart)) ∧
  (∀ (s : State) (t : Trigger),
    let x := s.profile t.profile
    let eligible := fun c : Fin 6 => firstEligible (s.condHolds t x) (x.states.get c)
    let next := fun c : Fin 6 => match eligible c with
      | some k => ((x.states.get c).transitions.get k).dest
      | none => c
    let path := fun n : Nat => Nat.repeat next n x.current
    let code := fun n : Nat => (BitVec.ofNat 8 n : Byte)
    let u := s.evaluate t
    ∃ m ≤ 6, (∀ n < m, (eligible (path n)).isSome = true) ∧ (m < 6 → eligible (path m) = none) ∧
      u = { s with
        exu := { s.exu with arrivals := s.exu.arrivals
          ++ (List.range m).map (fun n => ⟨.profileState, t.profile.val, s.sck.ms,
            [code (path (n + 1)).val, code x.current.val, code (n + 1), code t.cause.code,
              code (x.states.get (path (n + 1))).level.code, code (x.states.get (path (n + 1))).spentLevel.code]⟩)
          ++ (match eligible (path m) with
            | none => []
            | some k => [⟨.profileCycle, t.profile.val, s.sck.ms, [code (path m).val, code x.current.val, code k.val,
                code ((x.states.get (path m)).transitions.get k).dest.val, code t.cause.code]⟩]) }
        pfe := { s.pfe with profiles := put s.pfe.profiles t.profile { x with current := path m } }
        stt := { s.stt with notices := if path m = x.current then s.stt.notices
          else s.stt.notices ++ [.stateChange t.profile] } }) ∧
  (∀ (holds : Cond → Bool) (x : ProgState),
    let takes := fun k : Fin 4 => (x.transitions.get k).enabled = true ∧ holds (x.transitions.get k).cond = true
    (firstEligible holds x = none ↔ ∀ k, ¬takes k) ∧
    (∀ k, firstEligible holds x = some k ↔ takes k ∧ ∀ j < k, ¬takes j)) ∧
  (∀ (s : State) (t : Trigger) (x : Profile),
    let holds := s.condHolds t x
    let now := match t.event.bind ClockEvent.calendar with
      | some c => (c.weekday, c.minute)
      | none => (s.sck.weekday, s.sck.minute)
    (∀ w, holds (.wOpen w) = s.windowOpen (x.windows.get w) now ∧ holds (.wClosed w) = !holds (.wOpen w)) ∧
    holds .paused = x.paused ∧ holds .notPaused = !x.paused ∧
    (holds .dayStart = true ↔ t.cause = .rollover ∨ t.cause = .setRollover) ∧
    (holds .anySpent = true ↔ ∃ i, (s.sta i).state ≠ .free ∧ (s.sta i).state ≠ .left ∧ (s.sta i).state ≠ .reserved ∧
      (s.sta i).profile = some t.profile ∧ (s.sta i).spent = true) ∧
    holds .noneSpent = !holds .anySpent)

/-- The window test (R112), for every weekday, minute and window; and every window is closed while the clock is unset.
-/
def Obligations.WindowTestFollowsStartAndEnd : Prop :=
  ∀ (s : State) (w : Window) (d : Fin 7) (m : Nat),
    (s.sck.set = false → s.windowOpen w (d, m) = false) ∧
    (s.sck.set = true →
      (w.start < w.stop → (s.windowOpen w (d, m) = true ↔ w.mask.getLsbD d.val = true ∧ w.start ≤ m ∧ m < w.stop)) ∧
      (w.stop < w.start → (s.windowOpen w (d, m) = true ↔
        (w.mask.getLsbD d.val = true ∧ w.start ≤ m) ∨ (w.mask.getLsbD ((d.val + 6) % 7) = true ∧ m < w.stop))) ∧
      (w.start = w.stop → s.windowOpen w (d, m) = false))

/-! ## The Mesh Link Controller (chapter 8) -/

/-- SET_NODE (R123, R124): a node above 7 or of a peer, an unusable MAC or an ether type the part keeps is BAD_PARAM,
another node number while a record's exchange names this node AGAIN; else the identity is written, and turning the
mesh off makes every PRESENT peer ABSENT with cause MESH_OFF, its last sequence cleared, and tells of each by a notice
and a PEER_CHANGE; that the peers are taken in position order is the model's choice: log entry 27. MESH_INFO (R134)
answers identity, counters, present peers and discard counts. SET_PEER (R126) writes MAC and rate of the node's
record, or a new record at the lowest free position; NO_ROOM without one. A node number is looked up as the first peer
record that holds it (R125). CLEAR_PEER (R127) makes a PRESENT peer ABSENT with cause CLEARED and frees its position;
a node of no record is NOT_FOUND. -/
def Obligations.NodeAndPeersAreSet : Prop :=
  (∀ s o, s.freshHead .mlc 0x60 = some o →
    let m := macAt o.params 1
    let type := o.u16 7
    let enable := o.flag 9
    let bad := 7 < o.u8 0 ∨ (s.findPeer (o.u8 0)).isSome = true ∨ groupMac m = true ∨ m = 0 ∨
      type < 0x0600 ∨ type = 0x0800 ∨ type = 0x86DD
    (bad → exec .setNode s = .next (s.refuse o .badParam)) ∧
    (∀ n : Node, o.u8 0 = n.val → ¬bad →
      let busy := s.mlc.set = true ∧ s.mlc.node ≠ n ∧ ∃ r ∈ s.stt.recs.toList, r.inMove = true
      (busy → exec .setNode s = .next (s.refuse o .again)) ∧
      (¬busy → exec .setNode s =
        let t := { s with mlc := { s.mlc with
          set := true, node := n, mac := m, etherType := BitVec.ofNat 16 type, enable := enable } }
        let u := if s.mlc.set = true ∧ s.mlc.enable = true ∧ enable = false then t.meshOff else t
        .next (u.accept o ([BitVec.ofNat 8 n.val] ++ le 2 type ++ [flagByte enable, flagByte (!s.mlc.set)]))))) ∧
  (∀ r : Station, r.inMove = true ↔ r.state = .offering ∨ r.state = .moving ∨ r.state = .withdrawing ∨ r.state = .left ∨
    r.state = .reserved ∨ (r.state = .active ∧ r.handoff.isSome = true)) ∧
  (∀ s : State,
    let present := (s.mlc.peers.toList.filterMap id).filter Peer.present
    s.meshOff = { s with
      mlc := { s.mlc with
        peers := s.mlc.peers.map fun (e : Option Peer) => e.map fun q =>
          if q.present then { q with present := false, lastSeq := none } else q
        presence := s.mlc.presence ++ present.map fun q => (q.node, false) }
      exu := { s.exu with arrivals := s.exu.arrivals ++ present.map fun q => ⟨.peerChange, q.node.val, s.sck.ms,
        [0, 2, BitVec.ofNat 8 q.load, flagByte q.hold, flagByte q.staging, flagByte q.stagedComplete]
          ++ le 4 q.stagingId.toNat ++ le 4 q.activeId.toNat⟩ } }) ∧
  (∀ s o, s.freshHead .mlc 0x63 = some o → exec .meshInfo s = .next (s.accept o
    ([flagByte s.mlc.set, BitVec.ofNat 8 s.mlc.node.val] ++ macBytes s.mlc.mac ++ le 2 s.mlc.etherType.toNat
      ++ [flagByte s.mlc.enable] ++ le 2 s.mlc.seq.toNat ++ le 2 s.mlc.handoffCount.toNat
      ++ [BitVec.ofNat 8 s.presentPeers.length] ++ le 2 (min 65535 s.mlc.discards.off)
      ++ le 2 (min 65535 s.mlc.discards.malformed) ++ le 2 (min 65535 s.mlc.discards.unknownSender)
      ++ le 2 (min 65535 s.mlc.discards.notForUs) ++ le 2 (min 65535 s.mlc.discards.repeated)))) ∧
  (∀ s o, s.freshHead .mlc 0x61 = some o →
    let m := macAt o.params 1
    let rate := if o.u16 7 = 0 then 866 else min 4800 (max 1 (o.u16 7))
    let taken := fun n : Node => ∃ k q, s.mlc.peers.get k = some q ∧ q.node ≠ n ∧ q.mac = m
    (7 < o.u8 0 → exec .setPeer s = .next (s.refuse o .badParam)) ∧
    (∀ n : Node, o.u8 0 = n.val →
      let bad := (s.mlc.set = true ∧ s.mlc.node = n) ∨ groupMac m = true ∨ m = 0 ∨ taken n
      (bad → exec .setPeer s = .next (s.refuse o .badParam)) ∧
      (∀ k q, ¬bad → s.peerAt n.val = some k → s.mlc.peers.get k = some q → exec .setPeer s =
        .next ((s.putPeer k (some { q with mac := m, rate := rate })).accept o
          [BitVec.ofNat 8 k.val, flagByte q.present])) ∧
      (∀ k, ¬bad → s.peerAt n.val = none → firstIx s.mlc.peers Option.isNone = some k → exec .setPeer s =
        .next ((s.putPeer k (some ⟨n, m, rate, false, none, none, 0, false, false, false, 0, 0, 0⟩)).accept o
          [BitVec.ofNat 8 k.val, 0])) ∧
      (¬bad → s.peerAt n.val = none → firstIx s.mlc.peers Option.isNone = none →
        exec .setPeer s = .next (s.refuse o .noRoom)))) ∧
  (∀ s o, s.freshHead .mlc 0x62 = some o →
    (7 < o.u8 0 → exec .clearPeer s = .next (s.refuse o .badParam)) ∧
    (o.u8 0 ≤ 7 → s.peerAt (o.u8 0) = none → exec .clearPeer s = .next (s.refuse o .notFound)) ∧
    (∀ k q, o.u8 0 ≤ 7 → s.peerAt (o.u8 0) = some k → s.mlc.peers.get k = some q → exec .clearPeer s =
      let t := if q.present then s.setPresence k q false .cleared else s
      .next ((t.putPeer k none).accept o [BitVec.ofNat 8 k.val]))) ∧
  (∀ (s : State) (n : Nat),
    let holds := fun k => ∃ q, s.mlc.peers.get k = some q ∧ q.node.val = n
    (∀ k, s.peerAt n = some k ↔ holds k ∧ ∀ j < k, ¬holds j) ∧ (s.peerAt n = none ↔ ∀ k, ¬holds k) ∧
    ∀ q, s.findPeer n = some q ↔ ∃ k, s.peerAt n = some k ∧ s.mlc.peers.get k = some q) ∧
  (∀ (s : State) (k : Fin 7) (q : Option Peer),
    s.putPeer k q = { s with mlc := { s.mlc with peers := put s.mlc.peers k q } }) ∧
  (∀ (α : Type) (n : Nat) (v : Vector α n) (p : α → Bool),
    (∀ k, firstIx v p = some k ↔ p (v.get k) = true ∧ ∀ j < k, p (v.get j) = false) ∧
    (firstIx v p = none ↔ ∀ k, p (v.get k) = false))

/-- The tests of a mesh control frame (R129), the first that applies: mesh off, form, sender, receiver, repeat; each
discards and counts the frame under its cause and changes nothing else; the form test (R171) takes version 1, the 14
kinds with their body lengths, and receiver 15 for a BEACON alone. A valid message marks its sender heard with its
sequence number, PRESENT if it was ABSENT, and is given to its block. A message sent (R128): with the mesh enabled and
its receiver in the peer table its frame, padded to 60 bytes, joins MESH as CTRL, or as UPDATE for CHUNK_DATA, and the
sequence number moves on. Beacons and presence (R130, R131, R143, R162, R163): the beacon of a whole second is sent to
all; a PRESENT peer not heard for 3000 ms becomes ABSENT; an ABSENT notice fails the offers to that peer in index
order, then removes its serves and makes a fetch from it select another source, and a PRESENT notice changes nothing.
A change of presence is told by a notice and a PEER_CHANGE. These are the model's choices: that a PEER_CHANGE of cause
HEARD shows the values of the beacon that caused it: log entry 11; that the other bits of a BEACON's flags byte are
ignored: log entry 26; that the offers fail in index order: log entry 27; that a serve under way to a peer that
becomes ABSENT runs on: log entry 28; that a presence notice does the Handoff Controller's work before the Update
Stager's: log entry 34. -/
def Obligations.MeshFramesBeaconsAndPresence : Prop :=
  (∀ (s : State) (f : List Byte) (rest : List (List Byte)), s.mlc.frames = f :: rest →
     let t := { s with mlc := { s.mlc with frames := rest } }
     let counted := fun d => { t with mlc := { t.mlc with discards := d } }
     let d := s.mlc.discards
     let on := s.mlc.set = true ∧ s.mlc.enable = true
     let receiver := (byteAt f 17).toNat
     let seq : Half := BitVec.ofNat 16 (beAt f 18 2)
     (¬on → exec .meshControlFrame s = .next (counted { d with off := satAdd d.off 1 })) ∧
     (on → formOk f = false → exec .meshControlFrame s = .next (counted { d with malformed := satAdd d.malformed 1 })) ∧
     (formOk f = true ↔
       let n := beAt f 20 2
       let kind := (byteAt f 15).toNat
       let body := (f.drop 22).take n
       let b := fun k => (byteAt body k).toNat
       22 ≤ f.length ∧ byteAt f 14 = 1 ∧ 22 + n ≤ f.length ∧ (receiver = 15 → kind = 1) ∧
       ¬(8 ≤ receiver ∧ receiver ≤ 14) ∧
       ((kind = 1 ∧ n = 12) ∨ (kind = 2 ∧ n = 8) ∨ (kind = 3 ∧ n = 10) ∨
        (kind = 4 ∧ b 22 ≤ 4 ∧ b 23 ≤ 16 ∧ n = 24 + 5 * b 22 + 40 * b 23) ∨
        ((kind = 5 ∨ kind = 7 ∨ kind = 10 ∨ kind = 11) ∧ n = 10) ∨ (kind = 6 ∧ n = 11) ∨ (kind = 8 ∧ n = 17) ∨
        (kind = 9 ∧ n = 5) ∨ (kind = 12 ∧ 1 ≤ b 4 ∧ b 4 ≤ 8 ∧ n = 5 + 2 * b 4) ∨
        (kind = 13 ∧ 1 ≤ beAt body 7 2 ∧ beAt body 7 2 ≤ 1024 ∧ n = 9 + beAt body 7 2) ∨
        (kind = 14 ∧ 1 ≤ b 5 ∧ b 5 ≤ 8 ∧ n = 6 + 2 * b 5))) ∧
     (on → formOk f = true →
       (s.peerAt (byteAt f 16).toNat = none →
         exec .meshControlFrame s = .next (counted { d with unknownSender := satAdd d.unknownSender 1 })) ∧
       (∀ k q, s.peerAt (byteAt f 16).toNat = some k → s.mlc.peers.get k = some q →
         (q.mac ≠ frameSource f →
           exec .meshControlFrame s = .next (counted { d with unknownSender := satAdd d.unknownSender 1 })) ∧
         (q.mac = frameSource f →
           (receiver ≠ 15 ∧ receiver ≠ s.mlc.node.val →
             exec .meshControlFrame s = .next (counted { d with notForUs := satAdd d.notForUs 1 })) ∧
           (receiver = 15 ∨ receiver = s.mlc.node.val →
             (q.lastSeq = some seq →
               exec .meshControlFrame s = .next (counted { d with repeated := satAdd d.repeated 1 })) ∧
             (q.lastSeq ≠ some seq →
               let kind := (byteAt f 15).toNat
               let body := (f.drop 22).take (beAt f 20 2)
               let heard := q.heard s.sck.ms seq kind body
               let u := if q.present then t.putPeer k (some heard) else t.setPresence k heard true .heard
               let m : Msg := ⟨q.node, kind, body⟩
               (kind = 1 → exec .meshControlFrame s = .next u) ∧
               (1 < kind → kind < 12 → exec .meshControlFrame s =
                 .next { u with hoc := { u.hoc with messages := s.hoc.messages ++ [m] } }) ∧
               (12 ≤ kind → exec .meshControlFrame s =
                 .next { u with ups := { u.ups with messages := s.ups.messages ++ [m] } })))))) ∧
     (∀ q : Peer, ∀ now kind body,
       let b := fun i => byteAt body i
       q.heard now seq kind body = if kind = 1 then { q with
           lastHeard := some now, lastSeq := some seq, load := (b 0).toNat, hold := (b 1).getLsbD 0
           staging := (b 1).getLsbD 1, stagedComplete := (b 1).getLsbD 2, chunksHeld := beAt body 2 2
           stagingId := BitVec.ofNat 32 (beAt body 4 4), activeId := BitVec.ofNat 32 (beAt body 8 4) }
         else { q with lastHeard := some now, lastSeq := some seq })) ∧
  (∀ (s : State) (dest : Node) (kind : Nat) (body : List Byte),
     let on := s.mlc.set = true ∧ s.mlc.enable = true
     let sent := fun (to_ : Mac) (receiver k : Nat) (hop : Option Node) (b : List Byte) =>
       let f := macBytes to_ ++ macBytes s.mlc.mac ++ be 2 s.mlc.etherType.toNat
         ++ [1, BitVec.ofNat 8 k, BitVec.ofNat 8 s.mlc.node.val, BitVec.ofNat 8 receiver] ++ be 2 s.mlc.seq.toNat
         ++ be 2 b.length ++ b
       State.enqueueNew { s with mlc := { s.mlc with seq := s.mlc.seq + 1 } } .mesh
         ⟨f ++ List.replicate (60 - f.length) 0, if k = 13 then .update else .ctrl, none, hop, false, none, none, false⟩
     (¬on ∨ s.findPeer dest.val = none → s.sendTo dest kind body = s ∧ s.send dest kind body = (s, .notSent)) ∧
     (∀ q, on → s.findPeer dest.val = some q →
       let r := sent q.mac dest.val kind (some dest) body
       s.sendTo dest kind body = r.1 ∧ s.send dest kind body = (r.1, if r.2 then .joined else .dropped)) ∧
     (on → s.sendBeacon body = (sent 0xFFFFFFFFFFFF 15 1 none body).1) ∧ (¬on → s.sendBeacon body = s)) ∧
  (∀ s, s.mlc.beaconDue = true → exec .beaconTimer s =
    let load := (s.stt.recs.toList.filter fun r => r.state != .free && r.state != .left).length
    let staging := s.ups.state ≠ .idle
    let flags := (if s.ups.state = .hold then 1 else 0) + (if staging then 2 else 0) +
      if s.ups.state = .complete ∨ s.ups.state = .hold then 4 else 0
    .next (State.sendBeacon { s with mlc := { s.mlc with beaconDue := false } }
      ([BitVec.ofNat 8 load, BitVec.ofNat 8 flags] ++ be 2 (if staging then s.chunksHeld else 0)
        ++ be 4 (if staging then s.stagingId.toNat else 0) ++ be 4 s.activeId.toNat))) ∧
  (∀ s n k q, s.peerAt (n : Node).val = some k → s.mlc.peers.get k = some q →
    ((∃ t, q.present = true ∧ q.lastHeard = some t ∧ pastBy s.sck.ms t 3000 = true) →
      exec (.peerSilent n) s = .next (s.setPresence k q false .silent)) ∧
    ((q.present = false ∨ ∀ t, q.lastHeard = some t → pastBy s.sck.ms t 3000 = false) →
      exec (.peerSilent n) s = .next s)) ∧
  (∀ s n rest, s.mlc.presence = (n, true) :: rest →
    exec .presenceNotice s = .next { s with mlc := { s.mlc with presence := rest } }) ∧
  (∀ s n rest, s.mlc.presence = (n, false) :: rest → exec .presenceNotice s =
    let t := { s with mlc := { s.mlc with presence := rest } }
    let u := (List.finRange 128).foldl (fun (u : State) i => match (u.sta i).handoff with
      | some h => if (u.sta i).state = .offering ∧ h.peer = n then u.offerFails i h reasonAbsent false else u
      | none => u) t
    let v := { u with ups := { u.ups with serves := u.ups.serves.filter fun e => e.node != n } }
    .next (match v.ups.fetch with
      | some f => if f.source = some n then v.selectSource f else v
      | none => v)) ∧
  (∀ (s : State) k q present (c : PresenceCause), s.setPresence k q present c = { s with
    mlc := { s.mlc with
      peers := put s.mlc.peers k (some { q with present := present, lastSeq := if present then q.lastSeq else none })
      presence := s.mlc.presence ++ [(q.node, present)] }
    exu := { s.exu with arrivals := s.exu.arrivals ++ [⟨.peerChange, q.node.val, s.sck.ms,
      [flagByte present, BitVec.ofNat 8 c.code, BitVec.ofNat 8 q.load, flagByte q.hold, flagByte q.staging,
        flagByte q.stagedComplete] ++ le 4 q.stagingId.toNat ++ le 4 q.activeId.toNat⟩] } }) ∧
  (∀ (s : State) (a b : Nat), satAdd a b = min 4294967295 (a + b) ∧
    s.chunksHeld = (s.ups.map.filter fun c => c == .present).length ∧
    s.stagingId = (match s.ups.manifest with
      | some m => m.id
      | none => 0) ∧
    s.activeId = if s.fls.slot.active = .a then s.fls.slot.idA else s.fls.slot.idB)

/-! ## The Handoff Controller (chapter 9) -/

/-- SET_ROAMING (R135, R167) replaces the ten values, each clamped, restarts the check timer and answers the ten values in
the order of Table 9-1: the run-on, the load weight, the base margin and the game extra in one byte each, the other six
in two, the trigger and the critical level in two's complement; that order and those widths are read from R167: log
entry 10. At a check event (R136) the timer moves on one interval and each ACTIVE record with an average and no sub-record counts
its run-on below the trigger, up to 20, and starts a query when the run-on, the re-query time, the hold and the mesh
allow. A query that starts (R136 step 3, R138): the record is WATCHED with an unanswered candidate for each PRESENT
peer in node order and the query's deadline, and SIGNAL_QUERY goes to each of them, in node order too, which is the
model's choice: log entry 37; with no PRESENT peer the table closes at once. -/
def Obligations.RoamingIsSetAndChecked : Prop :=
  (∀ s o, s.freshHead .hoc 0x70 = some o →
    let listen := min 1000 (max 100 (o.u16 5))
    let c : Roaming :=
      { checkInterval := min 2000 (max 50 (o.u16 0)), trigger := min (-40) (max (-90) (signed16 (o.u16 2)))
        runOn := min 20 (max 1 (o.u8 4)), listenWindow := listen
        queryDeadline := max (listen + 100) (min 2000 (max 200 (o.u16 7)))
        loadWeight := min 64 (o.u8 9), baseMargin := min 20 (o.u8 10), gameExtra := min 20 (o.u8 11)
        critical := min (-50) (max (-85) (signed16 (o.u16 12))), arrivalWindow := min 60000 (max 2000 (o.u16 14)) }
    exec .setRoaming s = .next (State.accept { s with hoc := { s.hoc with
      roaming := c, checkAt := s.sck.ms + BitVec.ofNat 32 c.checkInterval } } o
      (le 2 c.checkInterval ++ le 2 (c.trigger % 65536).toNat ++ [BitVec.ofNat 8 c.runOn] ++ le 2 c.listenWindow
        ++ le 2 c.queryDeadline ++ [BitVec.ofNat 8 c.loadWeight, BitVec.ofNat 8 c.baseMargin, BitVec.ofNat 8 c.gameExtra]
        ++ le 2 (c.critical % 65536).toNat ++ le 2 c.arrivalWindow))) ∧
  (∀ s, s.sck.counting = true → reached s.sck.ms s.hoc.checkAt = true → exec .checkEvent s =
    .next ((List.finRange 128).foldl State.checkStation { s with hoc := { s.hoc with
      checkAt := s.hoc.checkAt + BitVec.ofNat 32 s.hoc.roaming.checkInterval } })) ∧
  (∀ (s : State) (i : StaIx), (s.sta i).state ≠ .active ∨ (s.sta i).handoff.isSome = true ∨ (s.sta i).signal = none →
    s.checkStation i = s) ∧
  (∀ (s : State) (i : StaIx) (avg : Int),
    (s.sta i).state = .active → (s.sta i).handoff = none → (s.sta i).signal = some avg →
    let c := s.hoc.roaming
    let r := { s.sta i with
      requery := if 16 * c.trigger + 48 ≤ avg then 2 else (s.sta i).requery
      runOn := if avg < 16 * c.trigger then min 20 ((s.sta i).runOn + 1) else 0 }
    let starts := c.runOn ≤ r.runOn ∧ reached s.sck.ms r.nextQuery = true ∧ s.ups.state ≠ .hold ∧
      s.mlc.set = true ∧ s.mlc.enable = true
    (starts → s.checkStation i = (s.setSta i r).startQuery i) ∧ (¬starts → s.checkStation i = s.setSta i r)) ∧
  (∀ s : State, s.presentPeers.Pairwise (· < ·) ∧ ∀ n, n ∈ s.presentPeers ↔ s.peerPresent n = true) ∧
  (∀ (s : State) (i : StaIx),
    let r := s.sta i
    let peers := s.presentPeers
    let t := s.setSta i { r with
      state := .watched, runOn := 0
      query := some ⟨peers.map fun n => ⟨n, false, none, 0, false⟩,
        s.sck.ms + BitVec.ofNat 32 s.hoc.roaming.queryDeadline⟩ }
    (peers = [] → s.startQuery i = t.closeQuery i) ∧
    (peers ≠ [] → s.startQuery i = peers.foldl (fun u n =>
      u.sendTo n kSignalQuery (macBytes r.mac ++ be 2 s.hoc.roaming.listenWindow)) t)) ∧
  ((∀ n : Nat, signed16 n = if n < 32768 then (n : Int) else (n : Int) - 65536) ∧
    ∀ (s : State) (n : Node), s.peerPresent n = true ↔ ∃ q, s.findPeer n.val = some q ∧ q.present = true)

/-- A SIGNAL_QUERY (R139) of a MAC and requester already listened for is only taken; with 8 entries it is answered
BUSY; else an entry listens for 100 to 1000 ms. At the end of its window the entry goes and its average is reported to
the requester, with the node's load and whether an install hold is in force (R85, R151). -/
def Obligations.ListeningAnswersItsRequester : Prop :=
  (∀ s m rest, s.hoc.messages = m :: rest → m.kind = kSignalQuery →
    let mac := macAt m.body 0
    let t := { s with hoc := { s.hoc with messages := rest } }
    let listened := ∃ e ∈ s.hoc.listen, e.mac = mac ∧ e.node = m.sender
    (listened → exec .signalQuery s = .next t) ∧
    (¬listened → 8 ≤ s.hoc.listen.length →
      exec .signalQuery s = .next (t.sendTo m.sender kSignalReport (t.reportBody mac none true))) ∧
    (¬listened → s.hoc.listen.length < 8 → exec .signalQuery s = .next { t with hoc := { t.hoc with
      listen := s.hoc.listen ++ [⟨mac, m.sender,
        s.sck.ms + BitVec.ofNat 32 (min 1000 (max 100 (beAt m.body 6 2))), none⟩] } })) ∧
  (∀ (s : State) (mac : Mac) (heard : Option Int) (busy : Bool), s.reportBody mac heard busy =
    let level := match heard with
      | some x => (x % 65536).toNat
      | none => 0x8000
    let load := (s.stt.recs.toList.filter fun r => r.state != .free && r.state != .left).length
    macBytes mac ++ be 2 level ++ [BitVec.ofNat 8 load,
      BitVec.ofNat 8 ((if s.ups.state = .hold then 1 else 0) + if busy then 2 else 0)]) ∧
  (∀ s mac n e before after, s.hoc.listen = before ++ e :: after → e.mac = mac → e.node = n →
    (∀ x ∈ before, ¬(x.mac = mac ∧ x.node = n)) →
    (reached s.sck.ms e.until_ = true → exec (.listenWindowEnd mac n) s =
      .next ((s.setListen (before ++ after)).sendTo n kSignalReport (s.reportBody mac e.average false))) ∧
    (reached s.sck.ms e.until_ = false → exec (.listenWindowEnd mac n) s = .next s)) ∧
  (∀ (s : State) (l : List Listen), s.setListen l = { s with hoc := { s.hoc with listen := l } })

/-- A candidate table (R138): a report of a node not yet answered fills that entry; the table closes and is scored
when every entry is answered or at its deadline; any other report is only taken. A station is gaming (R65) while its
last GAME frame lies less than 2000 ms in the past. The scoring (R140), with the extra margin of a gaming station
above the critical level: a peer that was heard, holds no install, is PRESENT and scores at least the own score plus
the margin qualifies; the winner is the qualifying peer of highest score, the earliest of equals; there is none when
none qualifies. A table that closes offers the station to its winner; without one the record is ACTIVE again with its
back-off (R137): the next query no sooner than the re-query time from now, and that time doubled up to 64 seconds.
That the other bits of a report's flags byte are ignored is the model's reading: log entry 26. -/
def Obligations.CandidatesAreCollectedAndScored : Prop :=
  (∀ s m rest, s.hoc.messages = m :: rest → m.kind = kSignalReport →
    let t := { s with hoc := { s.hoc with messages := rest } }
    (∀ i q, s.findMac (macAt m.body 0) = some i → (s.sta i).state = .watched → (s.sta i).query = some q →
      let waits := ∃ c ∈ q.entries, c.node = m.sender ∧ c.answered = false
      let flags := byteAt m.body 9
      let level := beAt m.body 6 2
      let entries := q.entries.map fun c => if c.node = m.sender then { c with
        answered := true, load := (byteAt m.body 8).toNat, hold := flags.getLsbD 0
        heard := if flags.getLsbD 1 = true ∨ level = 0x8000 then none
          else some (if level < 32768 then (level : Int) else (level : Int) - 65536) } else c
      let u := t.setSta i { s.sta i with query := some { q with entries := entries } }
      (¬waits → exec .signalReport s = .next t) ∧
      (waits → (∀ c ∈ entries, c.answered = true) → exec .signalReport s = .next (u.closeQuery i)) ∧
      (waits → (∃ c ∈ entries, c.answered = false) → exec .signalReport s = .next u)) ∧
    (∀ i, s.findMac (macAt m.body 0) = some i → (s.sta i).state ≠ .watched ∨ (s.sta i).query = none →
      exec .signalReport s = .next t) ∧
    (s.findMac (macAt m.body 0) = none → exec .signalReport s = .next t)) ∧
  (∀ (s : State) (r : Station), s.gaming r = true ↔ ∃ t, r.lastGame = some t ∧ (s.sck.ms - t).toNat < 2000) ∧
  (∀ s i q, (s.sta i).state = .watched → (s.sta i).query = some q →
    (reached s.sck.ms q.deadline = true → exec (.queryDeadline i) s = .next (s.closeQuery i)) ∧
    (reached s.sck.ms q.deadline = false → exec (.queryDeadline i) s = .next s)) ∧
  (∀ (s : State) (i : StaIx) (q : Query), (s.sta i).query = some q →
    let r := s.sta i
    (∀ n, s.winner r q.entries = some n → s.closeQuery i = s.beginOffer i n) ∧
    (s.winner r q.entries = none → s.closeQuery i = s.setSta i { r with
      state := .active, query := none
      nextQuery := s.sck.ms + BitVec.ofNat 32 (r.requery * 1000), requery := min 64 (2 * r.requery) })) ∧
  (∀ (s : State) (r : Station) (l : List Candidate),
     let avg := r.signal.getD 0
     let weight : Int := s.hoc.roaming.loadWeight
     let margin : Int := 16 * s.hoc.roaming.baseMargin +
       if s.gaming r = true ∧ 16 * s.hoc.roaming.critical ≤ avg then 16 * s.hoc.roaming.gameExtra else 0
     let scores := fun (c : Candidate) (x : Int) => ∃ h, c.heard = some h ∧ c.hold = false ∧ s.peerPresent c.node = true ∧
       x = h - weight * c.load ∧ avg - weight * s.load + margin ≤ x
     (s.winner r l = none ↔ ∀ c ∈ l, ∀ x, ¬scores c x) ∧
     (∀ n, s.winner r l = some n → ∃ before c after x, l = before ++ c :: after ∧ c.node = n ∧ scores c x ∧
       (∀ d ∈ before, ∀ y, scores d y → y < x) ∧ ∀ d ∈ after, ∀ y, scores d y → y ≤ x)) ∧
  (∀ s : State, s.load = (s.stt.recs.toList.filter fun r => r.state != .free && r.state != .left).length)

/-- An offer begins (R132, R133, R141): the record is OFFERING with a sub-record of a new handoff id, the peer, its
used minutes and day, and a wait of 100 ms, and the OFFER, built once, goes to the peer: the record's fields, its
unexpired arms with the time each has left, and up to 16 of its GAME and LIVE flows, most recently seen first, equals
in table order. An OFFER at the target (R142): declined during an install hold, for a MAC already here and without a
free index; accepted again for the id it reserved; else the lowest free index is RESERVED for it and it is accepted. A
reservation (R63, R142): the record takes the offered values, clamped, with the arrival deadline; an address entry of
the MAC goes; the handed flows are placed in order with origin HANDED, and spent flag and gate are computed. That an
arm and the MAC are stored as handed, a group or all-zero MAC too, that an ACCEPT carries the MAC of its OFFER and a
reservation's origin is the OFFER's sender, the class of a flow handed with no class code of a flow, and that any
nonzero LISTED byte is true, are the model's choices: log entries 26, 22, 3 and 30. -/
def Obligations.OfferReservesOrIsDeclined : Prop :=
  (∀ s m rest, s.hoc.messages = m :: rest → m.kind = kOffer →
    let t := { s with hoc := { s.hoc with messages := rest } }
    let declined := fun (reason : Byte) => t.sendTo m.sender kDecline (idMacBody m.id m.mac ++ [reason])
    let accepted := fun (u : State) => u.sendTo m.sender kAccept (idMacBody m.id m.mac)
    let repeated := s.findHandoff m.id (· == .reserved) none
    (s.ups.state = .hold → exec .offer s = .next (declined reasonUpdating)) ∧
    (s.ups.state ≠ .hold →
      (repeated.isSome = true → exec .offer s = .next (accepted t)) ∧
      (∀ i, repeated = none → s.findMac m.mac = some i → exec .offer s =
        .next (declined (if (s.sta i).state = .reserved then reasonBusy else reasonDuplicate))) ∧
      (repeated = none → s.findMac m.mac = none → s.freeIndex = none →
        exec .offer s = .next (declined reasonNoRoom)) ∧
      (∀ i, repeated = none → s.findMac m.mac = none → s.freeIndex = some i →
        exec .offer s = .next (accepted (t.reserve i m.sender m.body))))) ∧
  (∀ (s : State) (i : StaIx) (peer : Node), ∃ sorted : List Flow,
    let r := s.sta i
    let id : HandoffId := ⟨BitVec.ofNat 8 s.mlc.node.val, s.mlc.handoffCount + 1⟩
    let own := (s.flc.sets.toList.map fun (set : Vector (Option Flow) 4) => set.toList.filterMap fun w => w).flatten.filter
      fun f => f.station == some i && (f.cls == .game || f.cls == .live)
    let old := fun f : Flow => age s.sck.ms f.lastSeen
    let flows := sorted.take 16
    let arms := r.arms.toList.filterMap fun e => e.filter fun a => !reached s.sck.ms a.expiry
    let body := id.beBytes ++ macBytes r.mac ++ [match r.profile with
        | some p => BitVec.ofNat 8 p.val
        | none => 255] ++ be 2 r.used ++ be 2 r.bonus ++ be 4 (r.day.getD 0).toNat ++ [flagByte r.day.isSome] ++ be 2 r.rate
      ++ [BitVec.ofNat 8 arms.length, BitVec.ofNat 8 flows.length]
      ++ (arms.map fun a => [a.group] ++ be 4 (a.expiry - s.sck.ms).toNat).flatten
      ++ (flows.map fun f => f.key.bytes ++ [BitVec.ofNat 8 (classIx f.cls).val, flagByte f.listed]).flatten
    sorted.Pairwise (fun f g => old f ≤ old g) ∧ (∀ n, sorted.filter (fun f => old f == n) = own.filter fun f => old f == n) ∧
    s.beginOffer i peer = State.sendTo { s with
      mlc := { s.mlc with handoffCount := s.mlc.handoffCount + 1 }
      stt := { s.stt with recs := put s.stt.recs i { r with
        state := .offering, query := none
        handoff := some ⟨id, peer, 1, s.sck.ms + 100, r.used, r.day, false, none, body⟩ } } } peer kOffer body) ∧
  (∀ (s : State) (i : StaIx) (origin : Node) (b : List Byte),
    let arms := (byteAt b 22).toNat
    let mac := macAt b 4
    let day := if byteAt b 19 = 0 then none else some (BitVec.ofNat 32 (beAt b 15 4) : Word)
    let r : Station := { Station.free with
      state := .reserved, mac := mac, radio := .a
      profile := if h : (byteAt b 10).toNat < 16 then some ⟨(byteAt b 10).toNat, h⟩ else none
      rate := min 4800 (max 1 (beAt b 20 2)), used := min 1440 (beAt b 11 2), bonus := min 720 (beAt b 13 2), day := day
      arms := Vector.ofFn fun k : Fin 4 => if k.val < arms then
        some ⟨byteAt b (24 + 5 * k.val), s.sck.ms + BitVec.ofNat 32 (beAt b (25 + 5 * k.val) 4)⟩ else none
      handoff := some ⟨⟨byteAt b 0, BitVec.ofNat 16 (beAt b 2 2)⟩, origin, 0,
        s.sck.ms + BitVec.ofNat 32 s.hoc.roaming.arrivalWindow, beAt b 11 2, day, false, none, []⟩ }
    let t := { s with
      frp := { s.frp with addresses := s.frp.addresses.map fun (e : Option AddrEntry) => e.filter fun a => !(a.mac == mac) }
      stt := { s.stt with recs := put s.stt.recs i r } }
    let u := (List.range (byteAt b 23).toNat).foldl (fun v j =>
      let at_ := 24 + 5 * arms + 40 * j
      v.placeFlow ⟨flowKeyAt b at_, some i, handedClassOf (byteAt b (at_ + 38)), .handed, byteAt b (at_ + 39) != 0,
        s.sck.ms, s.sck.ms, 0⟩) t
    s.reserve i origin b = (u.recomputeSpent i).recomputeGate i) ∧
  (∀ c : TClass, c ≠ .ctrl → handedClassOf (BitVec.ofNat 8 (classIx c).val) = c) ∧ (∀ b, handedClassOf b ≠ .ctrl) ∧
  (∀ (b : List Byte) (at_ : Nat), at_ + 38 ≤ b.length → (flowKeyAt b at_).bytes = (b.drop at_).take 38)

/-- The end of an offer (R143, R150): an ACCEPT of the peer the record offers to makes it MOVING with an empty hold
list, gives STEER and answers the FORCE_HANDOFF that waits for it OK; one of an id no record holds is answered
WITHDRAW; a DECLINE fails the offer with its reason. An offer that fails frees a departed record and returns any other
to ACTIVE with its back-off; it gives HANDOFF_FAILED and answers the FORCE_HANDOFF that waits for it TIMEOUT, or
DECLINED with the reason. The body of ACCEPT, CONFIRM, WITHDRAW and WITHDRAW_ACK, with which a DECLINE begins too, is
10 bytes (R167, R171): the id's node, a zero byte, its 16-bit count and the MAC, most significant byte first; a
received id and MAC are read from the same bytes. A record holds an id in its handoff sub-record or its settle
exchange, and two ids are the same when node and count agree (R133). FORCE_HANDOFF makes an ACTIVE record without
sub-record offer to a PRESENT peer at once, and is refused otherwise. That an ACCEPT is discarded for any record that
holds its id is the model's choice: log entry 22; that the second byte of a received id is not looked at, log entry
26. -/
def Obligations.OfferEndsInAMoveOrFails : Prop :=
  let answersForced := fun (t : State) (i : StaIx) (st : Status) (detail : Byte) => match t.hoc.forced with
    | some (k, id) =>
      if k = i then State.finish { t with hoc := { t.hoc with forced := none } } id st detail [] else t
    | none => t
  (∀ s m rest, s.hoc.messages = m :: rest → m.kind = kAccept →
    let t := { s with hoc := { s.hoc with messages := rest } }
    let found := s.findHandoff m.id (· == .offering) (some m.sender)
    (∀ i h, found = some (i, h) → exec .accept s = .next (answersForced { t with
      stt := { s.stt with recs := put s.stt.recs i { s.sta i with
        state := .moving
        handoff := some { h with
          tries := 0, deadline := s.sck.ms + BitVec.ofNat 32 (s.hoc.roaming.arrivalWindow + 2000) }
        held := some [] } }
      exu := { s.exu with arrivals := s.exu.arrivals ++ [⟨.steer, i.val, s.sck.ms,
        [BitVec.ofNat 8 h.peer.val] ++ macBytes (s.sta i).mac ++ h.id.leBytes⟩] } } i .ok 0)) ∧
    (found = none → (∃ r ∈ s.stt.recs.toList, r.holdsId m.id = true) → exec .accept s = .next t) ∧
    (found = none → (∀ r ∈ s.stt.recs.toList, r.holdsId m.id = false) →
      exec .accept s = .next (t.sendTo m.sender kWithdraw (idMacBody m.id m.mac)))) ∧
  (∀ (s : State) (id : HandoffId) (p : StaState → Bool) (peer : Option Node),
    let holds := fun (i : StaIx) (h : Handoff) => (s.sta i).handoff = some h ∧ p (s.sta i).state = true ∧ h.id = id ∧
      (peer = none ∨ peer = some h.peer)
    (∀ i h, s.findHandoff id p peer = some (i, h) ↔ holds i h ∧ ∀ j < i, ∀ g, ¬holds j g) ∧
    (s.findHandoff id p peer = none ↔ ∀ i h, ¬holds i h)) ∧
  (∀ s m rest, s.hoc.messages = m :: rest → m.kind = kDecline →
    let t := { s with hoc := { s.hoc with messages := rest } }
    (∀ i h, s.findHandoff m.id (· == .offering) (some m.sender) = some (i, h) →
      exec .decline s = .next (t.offerFails i h (byteAt m.body 10) false)) ∧
    (s.findHandoff m.id (· == .offering) (some m.sender) = none → exec .decline s = .next t)) ∧
  (∀ (s : State) (i : StaIx) (h : Handoff) (reason : Byte) (timedOut : Bool),
    let r := s.sta i
    let t := if r.departed then s.freeStation i else s.setSta i { r with
      state := .active, handoff := none, runOn := 0
      nextQuery := s.sck.ms + BitVec.ofNat 32 (r.requery * 1000), requery := min 64 (2 * r.requery) }
    let u := { t with exu := { t.exu with arrivals := t.exu.arrivals ++ [⟨.handoffFailed, i.val, s.sck.ms,
      [BitVec.ofNat 8 h.peer.val] ++ h.id.leBytes ++ [reason]⟩] } }
    s.offerFails i h reason timedOut =
      if timedOut then answersForced u i .timeout 0 else answersForced u i .declined reason) ∧
  (∀ s o, s.freshHead .hoc 0x71 = some o →
    (127 < o.u8 0 ∨ 7 < o.u8 1 → exec .forceHandoff s = .next (s.refuse o .badParam)) ∧
    (∀ (i : StaIx) (n : Node), o.u8 0 = i.val → o.u8 1 = n.val →
      let off := (s.sta i).state = .free ∨ s.ups.state = .hold ∨ s.meshEnabled = false ∨ s.peerPresent n = false
      (off → exec .forceHandoff s = .next (s.refuse o .refusedState)) ∧
      (¬off → (s.sta i).state ≠ .active ∨ (s.sta i).handoff.isSome = true →
        exec .forceHandoff s = .next (s.refuse o .again)) ∧
      (¬off → (s.sta i).state = .active → (s.sta i).handoff = none → exec .forceHandoff s =
        let t := (s.mark o.id .working).beginOffer i n
        .next { t with hoc := { t.hoc with forced := some (i, o.id) } }))) ∧
  (∀ (id : HandoffId) (mac : Mac),
    let count := fun k => (BitVec.ofNat 8 (id.count.toNat / 256 ^ k) : Byte)
    let byte := fun k => (BitVec.ofNat 8 (mac.toNat / 256 ^ k) : Byte)
    idMacBody id mac =
      [id.node, 0, count 1, count 0, byte 5, byte 4, byte 3, byte 2, byte 1, byte 0] ∧
    id.beBytes = [id.node, 0, count 1, count 0] ∧ id.leBytes = [id.node, 0, count 0, count 1] ∧
    ∀ (m : Msg) (rest : List Byte), m.body = idMacBody id mac ++ rest → m.id = id ∧ m.mac = mac) ∧
  (∀ m : Msg, m.id.node = byteAt m.body 0 ∧ m.id.count.toNat = beAt m.body 2 2 ∧ m.mac.toNat = beAt m.body 4 6) ∧
  (∀ (id : HandoffId) (r : Station), r.holdsId id = true ↔ (∃ h, r.handoff = some h ∧ h.id = id) ∨
    ∃ f w, r.forward = some f ∧ f.settle = some w ∧ w.id = id) ∧
  (∀ (s : State) (id : HandoffId),
    let settles := fun (i : StaIx) (f : Forward) => (s.sta i).state = .left ∧ (s.sta i).forward = some f ∧
      ∃ w, f.settle = some w ∧ w.id = id
    (∀ i f, s.findSettle id = some (i, f) ↔ settles i f ∧ ∀ j < i, ∀ g, ¬settles j g) ∧
    (s.findSettle id = none ↔ ∀ i f, ¬settles i f)) ∧
  (∀ s : State, s.meshEnabled = true ↔ s.mlc.set = true ∧ s.mlc.enable = true)

/-- The retry convention (R132): at the end of a wait an exchange with fewer than three sends makes the next one and
waits twice as long as before, and one with three has failed: an offer fails with TIMEOUT, a withdrawn record returns,
a CONFIRM exchange stops and a SETTLE is given up with SETTLE_LOST. The deadlines of a handoff (R145, R146, R147,
R149), each acting once reached: a MOVING record withdraws; the settle wait ends and its sub-record goes; a
reservation that nobody arrived for is freed with RESERVATION_EXPIRED; a record in LEFT is freed with STATION_GONE.
Before its deadline each does nothing. That a wait runs from the moment of its send is the model's choice: log entry
22. -/
def Obligations.HandoffTimersRetryAndEndMoves : Prop :=
  (∀ (s : State) (i : StaIx),
     let r := s.sta i
     (∀ h, r.state = .offering → r.handoff = some h → reached s.sck.ms h.deadline = true →
       (h.tries < 3 → exec (.retryWaitExpiry i) s = .next ((s.setSta i { r with handoff := some { h with
         tries := h.tries + 1, deadline := s.sck.ms + BitVec.ofNat 32 (100 * 2 ^ h.tries) } }).sendTo h.peer kOffer h.body)) ∧
       (3 ≤ h.tries → exec (.retryWaitExpiry i) s = .next (s.offerFails i h reasonTimeout true))) ∧
     (∀ h, r.state = .withdrawing → r.handoff = some h → reached s.sck.ms h.deadline = true →
       (h.tries < 3 → exec (.retryWaitExpiry i) s = .next ((s.setSta i { r with handoff := some { h with
         tries := h.tries + 1, deadline := s.sck.ms + BitVec.ofNat 32 (100 * 2 ^ h.tries) } }).sendTo h.peer kWithdraw
           (idMacBody h.id r.mac))) ∧
       (3 ≤ h.tries → exec (.retryWaitExpiry i) s = .next (s.returnStation i h reasonTimeout))) ∧
     (∀ h t, r.state = .active → r.handoff = some h → h.wait = some t → reached s.sck.ms t = true →
       (h.tries < 3 → exec (.retryWaitExpiry i) s = .next ((s.setSta i { r with handoff := some { h with
         tries := h.tries + 1, wait := some (s.sck.ms + BitVec.ofNat 32 (100 * 2 ^ h.tries)) } }).sendTo h.peer kConfirm
           (idMacBody h.id r.mac))) ∧
       (3 ≤ h.tries → exec (.retryWaitExpiry i) s =
         .next (s.setSta i { r with handoff := some { h with wait := none } }))) ∧
     (∀ f w, r.state = .left → r.forward = some f → f.settle = some w → reached s.sck.ms w.wait = true →
       (w.tries < 3 → exec (.retryWaitExpiry i) s = .next ((s.setSta i { r with forward := some { f with settle := some { w with
         tries := w.tries + 1, wait := s.sck.ms + BitVec.ofNat 32 (50 * 2 ^ w.tries) } } }).sendTo f.peer kSettle
           (settleBody w.id r.mac w.u1 w.day))) ∧
       (3 ≤ w.tries → exec (.retryWaitExpiry i) s = .next { s with
         stt := { s.stt with recs := put s.stt.recs i { r with forward := some { f with settle := none } } }
         exu := { s.exu with arrivals := s.exu.arrivals ++ [⟨.settleLost, i.val, s.sck.ms,
           [BitVec.ofNat 8 f.peer.val] ++ w.id.leBytes⟩] } }))) ∧
  (∀ (s : State) (i : StaIx),
     let r := s.sta i
     (∀ h, r.handoff = some h → reached s.sck.ms h.deadline = true →
       (r.state = .moving → exec (.moveDeadline i) s = .next ((s.setSta i { r with
         state := .withdrawing, handoff := some { h with tries := 1, deadline := s.sck.ms + 100 } }).sendTo h.peer kWithdraw
           (idMacBody h.id r.mac))) ∧
       (r.state = .active → exec (.settleWaitEnd i) s = .next (s.setSta i { r with handoff := none })) ∧
       (r.state = .reserved → exec (.arrivalDeadline i) s = .next ((s.freeStation i).giveReport .reservationExpired i.val
         ([BitVec.ofNat 8 h.peer.val] ++ h.id.leBytes)))) ∧
     (∀ h, r.handoff = some h → reached s.sck.ms h.deadline = false → exec (.moveDeadline i) s = .next s ∧
       exec (.settleWaitEnd i) s = .next s ∧ exec (.arrivalDeadline i) s = .next s) ∧
     (∀ f, r.state = .left → r.forward = some f →
       (reached s.sck.ms f.grace = true → exec (.graceDeadline i) s =
         .next ((s.freeStation i).giveReport .stationGone i.val [BitVec.ofNat 8 f.peer.val])) ∧
       (reached s.sck.ms f.grace = false → exec (.graceDeadline i) s = .next s))) ∧
  (∀ (id : HandoffId) (mac : Mac) (u1 : Nat) (day : Option Word),
     settleBody id mac u1 day = idMacBody id mac ++ be 2 u1 ++ be 4 (day.getD 0).toNat ++ [flagByte day.isSome]) ∧
  (∀ (s : State) (kind : ReportKind) (subject : Nat) (body : List Byte), s.giveReport kind subject body =
     { s with exu := { s.exu with arrivals := s.exu.arrivals ++ [⟨kind, subject, s.sck.ms, body⟩] } })

/-- The messages that end a move (R146, R147, R148, R149): a CONFIRM completes the move of the record that holds its
id from that peer; a SETTLE is applied once, on the day both nodes stamped, and always acknowledged; a SETTLE_ACK ends
the settle exchange; a WITHDRAW frees a reservation or is answered by what is here; a WITHDRAW_ACK returns the
withdrawn record. A move completed (R147): the record is LEFT toward its peer for 2000 ms; its flows, its place in its
profile and its queued copies go; its held frames are enqueued to MESH; SETTLE is sent and HANDOFF_DONE tells how many
joined. A return (R149): a departed record is freed; any other is ACTIVE with its back-off and its held frames are
enqueued toward its radio; HANDOFF_FAILED is given. Held frames are enqueued in order with what was kept of them (R39,
R144). That a SETTLE and a SETTLE_ACK are matched by their id alone and that a WITHDRAW_ACK carries the MAC of the
WITHDRAW, are the model's choices: log entry 22. -/
def Obligations.MessagesEndTheMove : Prop :=
  (∀ (s : State) (m : Msg) (rest : List Msg), s.hoc.messages = m :: rest →
    let t := { s with hoc := { s.hoc with messages := rest } }
    (m.kind = kConfirm →
      let found := s.findHandoff m.id (fun g => g == .moving || g == .withdrawing) (some m.sender)
      (∀ i h, found = some (i, h) → exec .confirm s = .next (t.completeMove i h)) ∧
      (found = none → exec .confirm s = .next t)) ∧
    (m.kind = kSettle →
      let day := if byteAt m.body 16 = 0 then none else some (BitVec.ofNat 32 (beAt m.body 12 4) : Word)
      let today := if s.sck.set then some s.sck.day else none
      let ack := fun (u : State) (applied : Bool) => u.sendTo m.sender kSettleAck (m.id.beBytes ++ [flagByte applied])
      let found := s.findHandoff m.id (· == .active) none
      (∀ i h, found = some (i, h) →
        let r := s.sta i
        let applies := h.settled = false ∧ day.isSome = true ∧ day = h.day ∧ day = today
        (applies → exec .settle s = .next (ack ((t.setSta i { r with
          used := min 1440 (r.used + (beAt m.body 10 2 - h.u0))
          handoff := some { h with settled := true, wait := none } }).recomputeSpent i) true)) ∧
        (¬applies → exec .settle s =
          .next (ack (t.setSta i { r with handoff := some { h with wait := none } }) false))) ∧
      (found = none → exec .settle s = .next (ack t false))) ∧
    (m.kind = kSettleAck →
      (∀ i f, s.findSettle m.id = some (i, f) → exec .settleAck s =
        .next (t.setSta i { s.sta i with forward := some { f with settle := none } })) ∧
      (s.findSettle m.id = none → exec .settleAck s = .next t)) ∧
    (m.kind = kWithdraw →
      let found := s.findHandoff m.id (· == .reserved) none
      let here := ∃ i, s.findMac m.mac = some i ∧
        ((s.sta i).state = .active ∨ (s.sta i).state = .watched ∨ (s.sta i).state = .offering)
      (∀ i h, found = some (i, h) → exec .withdraw s =
        .next ((t.freeStation i).sendTo m.sender kWithdrawAck (idMacBody m.id m.mac))) ∧
      (found = none → here → exec .withdraw s = .next (t.sendTo m.sender kConfirm (idMacBody m.id m.mac))) ∧
      (found = none → ¬here → exec .withdraw s = .next (t.sendTo m.sender kWithdrawAck (idMacBody m.id m.mac)))) ∧
    (m.kind = kWithdrawAck →
      let found := s.findHandoff m.id (· == .withdrawing) (some m.sender)
      (∀ i h, found = some (i, h) → exec .withdrawAck s = .next (t.returnStation i h reasonWithdrawn)) ∧
      (found = none → exec .withdrawAck s = .next t))) ∧
  (∀ (s : State) (i : StaIx) (h : Handoff),
    let r := s.sta i
    let t := s.setSta i { r with
      state := .left, handoff := none, query := none, held := none
      forward := some ⟨h.peer, s.sck.ms + 2000, some ⟨h.id, 1, s.sck.ms + 50, r.used, r.day⟩⟩ }
    let sets := s.flc.sets.map fun (v : Vector (Option Flow) 4) => v.map fun (w : Option Flow) =>
      w.filter fun (f : Flow) => !(f.station == some i)
    let u := State.membership { t with flc := { s.flc with sets := sets } } r.profile
    let q := State.releaseHeld .mesh none (some h.peer) (r.held.getD []) (u.purgeStation i)
    let v := q.1.sendTo h.peer kSettle
      (h.id.beBytes ++ macBytes r.mac ++ be 2 r.used ++ be 4 (r.day.getD 0).toNat ++ [flagByte r.day.isSome])
    s.completeMove i h = { v with exu := { v.exu with arrivals := v.exu.arrivals ++ [⟨.handoffDone, i.val, v.sck.ms,
      [BitVec.ofNat 8 h.peer.val] ++ h.id.leBytes ++ [BitVec.ofNat 8 q.2]⟩] } }) ∧
  (∀ (s : State) (i : StaIx) (h : Handoff) (reason : Byte),
    let r := s.sta i
    let t := s.setSta i { r with
      state := .active, handoff := none, held := none, runOn := 0
      nextQuery := s.sck.ms + BitVec.ofNat 32 (r.requery * 1000), requery := min 64 (2 * r.requery) }
    let u := if r.departed then s.freeStation i
      else (State.releaseHeld (radioPort r.radio) (some i) none (r.held.getD []) t).1
    s.returnStation i h reason = { u with exu := { u.exu with arrivals := u.exu.arrivals ++ [⟨.handoffFailed, i.val,
      u.sck.ms, [BitVec.ofNat 8 h.peer.val] ++ h.id.leBytes ++ [reason]⟩] } }) ∧
  (∀ (s : State) (p : PortId) (station : Option StaIx) (hop : Option Node),
    State.releaseHeld p station hop [] s = (s, 0) ∧
    ∀ h rest,
      let one := s.enqueueHeld p ⟨h.frame, h.cls, station, hop, false, h.source, some h.ingress, h.listed⟩
      let others := State.releaseHeld p station hop rest one.1
      State.releaseHeld p station hop (h :: rest) s = (others.1, others.2 + if one.2 then 1 else 0)) ∧
  (∀ (s : State) (i : StaIx),
    let t := s.purgeStation i
    let kept := fun q : List Copy => q.filter fun c => !(c.station == some i)
    let gone := fun p : PortId => ((s.port p).queues.toList.map fun q => q.length - (kept q).length).sum
    t = { s with frp := { s.frp with
      ports := t.frp.ports
      free := s.frp.free + gone .localPort + gone .wan + gone .radioA + gone .radioB + gone .mesh } } ∧
    ∀ p, t.port p = { s.port p with
      queues := (s.port p).queues.map kept
      deficits := Vector.ofFn fun k : Fin 4 =>
        if kept ((s.port p).queue (drrClass k)) = [] then 0 else (s.port p).deficits.get k })

/-! ## Flash, staging and install (chapter 10) -/

/-- The Flash Controller (R153): when its operation ends, its requester goes on and the oldest request of the highest
class is started; an erase not ended in 500 ms or a program not ended in 5 ms fails and no operation starts until a
status read shows not busy; a read never times out. A request waits while an operation runs or the device is stalled.
The slot record check starts with the read of the record's 16 bytes. That a read gives exactly the bytes asked for and
that a completion without an operation stands for the status read are the model's choices, log entry 4; the class of
the check's reads is log entry 18. -/
def Obligations.FlashOperationsEndInOrderOrTimeOut : Prop :=
  let rank : FlashClass → Nat := fun
    | .slotRecord => 1 | .readFlash => 2 | .serve => 3 | .staging => 4
  (∀ l : List FlashOp, l ≠ [] → (nextFlash l).isSome = true) ∧
  (∀ l o rest, nextFlash l = some (o, rest) → ∃ before after, l = before ++ o :: after ∧ rest = before ++ after ∧
    (∀ x ∈ before, rank o.cls < rank x.cls) ∧ ∀ x ∈ after, rank o.cls ≤ rank x.cls) ∧
  (∀ (s : State) (o : FlashOp),
    let t := { s with fls := { s.fls with waiting := s.fls.waiting ++ [o] } }
    (s.fls.op.isSome = true ∨ s.fls.stalled = true → s.flashRequest o = t) ∧
    (∀ p rest, s.fls.op = none → s.fls.stalled = false → nextFlash (s.fls.waiting ++ [o]) = some (p, rest) →
      s.flashRequest o = { s with fls := { s.fls with op := some (p, s.sck.us), waiting := rest } })) ∧
  (∀ s : State,
    (s.fls.stalled = true ∨ s.fls.waiting = [] → s.opEnds = { s with fls := { s.fls with op := none } }) ∧
    (∀ p rest, s.fls.stalled = false → nextFlash s.fls.waiting = some (p, rest) →
      s.opEnds = { s with fls := { s.fls with op := some (p, s.sck.us), waiting := rest } })) ∧
  (∀ (s : State) (o : FlashOp) (since : Us) (data : List Byte), s.fls.op = some (o, since) →
    exec (.flashOperationComplete data) s =
      .next (s.flashDone o.owner true (if o.kind = .read then pad o.len data else [])).opEnds ∧
    (o.kind = .read → exec .flashTimeout s = .next s) ∧
    (∀ limit, (o.kind = .program ∧ limit = 5000) ∨ (o.kind = .erase ∧ limit = 500000) →
      ((s.sck.us - since).toNat < limit → exec .flashTimeout s = .next s) ∧
      (limit ≤ (s.sck.us - since).toNat → exec .flashTimeout s =
        .next (State.flashDone { s with fls := { s.fls with stalled := true } } o.owner false []).opEnds))) ∧
  (∀ s data, s.fls.op = none → s.fls.stalled = true → exec (.flashOperationComplete data) s =
    .next (State.opEnds { s with fls := { s.fls with stalled := false } })) ∧
  (∀ s data limit, s.fls.op = none → s.fls.stalled = false → s.fls.boot = .waitStatus limit →
    exec (.flashOperationComplete data) s = .next { s with fls := { s.fls with boot := .statusRead } }) ∧
  (∀ s, (s.fls.boot = .statusRead ∨ ∃ limit : Us, s.fls.boot = .waitStatus limit ∧ limit.toNat ≤ s.sck.us.toNat) →
    exec .slotRecordCheck s = .next (State.flashRequest { s with fls := { s.fls with boot := .readRecord } }
      ⟨.slotRecord, .read, 0x0FF000, 16, [], .boot⟩))

/-- The slot record (R155, R172): 16 bytes are good exactly when they are those of a record whose slots differ and
whose remaining starts are at most 3, and 0 unless it is on trial. The check: a bad record is taken as slot A active
with RECORD_INVALID; a confirmed one is used as it stands; one on trial loses a start, or with none left goes back to
the fallback slot, and is written by erase and program, a failure of which goes on with the written flag clear. Then
the active slot's manifest is read and the check ends: the record is in use and its report is given. That
RECORD_INVALID has its written flag clear, that the effects come at the end of the check and how the manifest is read
are the model's choices: log entry 18. -/
def Obligations.SlotRecordIsCheckedAndReadBack : Prop :=
  (∀ (b : List Byte) (r : SlotRecord), b.length = 16 → (slotRecordOf b = some r ↔
    r.bytes = b ∧ r.active ≠ r.fallback ∧ r.remaining ≤ 3 ∧ (r.trial = false → r.remaining = 0))) ∧
  (∀ r : SlotRecord, r.remaining ≤ 3 → r.bytes.length = 16 ∧
    r.bytes = r.bytes.take 12 ++ le 4 (crc32 (r.bytes.take 12)).toNat ∧
    r.bytes.take 12 = [BitVec.ofNat 8 r.active.code, BitVec.ofNat 8 r.fallback.code, flagByte r.trial,
      BitVec.ofNat 8 r.remaining] ++ le 4 r.idA.toNat ++ le 4 r.idB.toNat) ∧
  (∀ (s : State) (r : SlotRecord) (report : Option (ReportKind × Bool)) (got : List Byte),
    let at_ := slotBase r.active
    s.bootManifest r report got = State.flashRequest { s with fls := { s.fls with boot := .readManifest r report got } }
      ⟨.slotRecord, .read, if got = [] then at_ else at_ + 4096,
        if got = [] then 4096 else 16 + 4 * leAt got 8 2 - 4096, [], .boot⟩) ∧
  (∀ (s : State) (p : FlashOp) (since : Us) (data : List Byte),
    s.fls.op = some (p, since) → p.owner = .boot → p.kind ≠ .read ∨ data.length = p.len →
    let ends := fun t : State => exec (.flashOperationComplete data) s = .next t.opEnds
    let erases := fun (r : SlotRecord) (k : ReportKind) =>
      State.flashRequest { s with fls := { s.fls with boot := .eraseRecord r k } }
        ⟨.slotRecord, .erase, 0x0FF000, 4096, [], .boot⟩
    (p.kind = .read → s.fls.boot = .readRecord →
      (slotRecordOf data = none → ends (s.bootManifest ⟨.a, .b, false, 0, 0, 0⟩ (some (.recordInvalid, false)) [])) ∧
      (∀ r, slotRecordOf data = some r →
        (r.trial = false → ends (s.bootManifest r none [])) ∧
        (r.trial = true → r.remaining ≠ 0 → ends (erases { r with remaining := r.remaining - 1 } .trialStart)) ∧
        (r.trial = true → r.remaining = 0 →
          ends (erases { r with active := r.fallback, fallback := r.active, trial := false } .reverted)))) ∧
    (∀ r k, s.fls.boot = .eraseRecord r k → ends (State.flashRequest
      { s with fls := { s.fls with boot := .programRecord r k } } ⟨.slotRecord, .program, 0x0FF000, 16, r.bytes, .boot⟩)) ∧
    (∀ r k, s.fls.boot = .programRecord r k → ends (s.bootManifest r (some (k, true)) [])) ∧
    (∀ r k, s.fls.boot = .eraseRecord r k ∨ s.fls.boot = .programRecord r k →
      (p.kind = .erase ∧ 500000 ≤ (s.sck.us - since).toNat) ∨ (p.kind = .program ∧ 5000 ≤ (s.sck.us - since).toNat) →
      exec .flashTimeout s =
        .next (State.bootManifest { s with fls := { s.fls with stalled := true } } r (some (k, false)) []).opEnds) ∧
    (∀ r report got, p.kind = .read → s.fls.boot = .readManifest r report got →
      let b := got ++ data
      let longer := b.length = 4096 ∧ 1 ≤ leAt b 8 2 ∧ leAt b 8 2 ≤ 1918 ∧ leAt b 0 4 ≠ 0 ∧ 4096 < 16 + 4 * leAt b 8 2
      (longer → ends (s.bootManifest r report b)) ∧
      (¬longer → ends { s with
        fls := { s.fls with boot := .done, slot := r, activeManifest := manifestOf b }
        exu := { s.exu with arrivals := s.exu.arrivals ++ match report with
          | none => []
          | some (k, written) => [⟨k, 0, s.sck.ms, [BitVec.ofNat 8 r.active.code, flagByte r.trial,
              BitVec.ofNat 8 r.remaining, flagByte written]⟩] } })))

/-- READ_FLASH (R166): a length of 0 or above 65536, or a span beyond the flash, is BAD_PARAM, a destination that is
not usable AREA_ERROR; else it is read in pieces of at most 4096 bytes, each written to its place in the destination
before the next is read, and at the end answered OK with the length. A table read (R18): when an entry's writes have
completed the next entry is copied and written behind it, and after the last one it is answered OK with the entries
written, the next index and what remains, which the read position keeps. While pieces of a transfer still wait,
nothing else happens. That a piece is read only when the one before it has been written is the model's choice: log entry 31. -/
def Obligations.ReadFlashAndTableReadsGoOnInPieces : Prop :=
  (∀ s o, s.fls.boot = .done → s.freshHead .fls 0x90 = some o →
    let offset := o.u32 0
    let len := o.u32 4
    let dest := o.u32 8
    let bad := len = 0 ∨ 65536 < len ∨ 16777216 < offset + len
    let outside := dest < 64 ∨ o.area.size < dest + len
    (bad → exec .readFlash s = .next (s.refuse o .badParam)) ∧
    (¬bad → outside → exec .readFlash s = .next (s.refuse o .areaError)) ∧
    (¬bad → ¬outside → exec .readFlash s =
      let t := s.mark o.id .working
      .next (State.flashRequest { t with fls := { t.fls with
          readWork := some ⟨o.id, len, offset, min 4096 len, len - min 4096 len, dest⟩ } }
        ⟨.readFlash, .read, offset, min 4096 len, [], .readFlash⟩))) ∧
  (∀ (s : State) (p : FlashOp) (since : Us) (data : List Byte) (w : ReadWork) (o : Order),
    s.fls.op = some (p, since) → p.owner = .readFlash → p.kind = .read → data.length = p.len →
    s.fls.readWork = some w → s.orderOf w.order = some o →
    exec (.flashOperationComplete data) s = .next (s.bulkWrite o w.dest data).opEnds) ∧
  (∀ (s : State) (o : Order) (offset len : Nat) (data : List Byte),
    s.bulkWrite o offset data = s.request (writeAccesses .bulk o.area offset data (.bulk o.id)) ∧
    s.bulkRead o offset len = s.request (readAccesses .bulk o.area offset len (.bulk o.id))) ∧
  (∀ (s : State) (a : Access) (since : Us) (id : Nat) (o : Order) (data : List Byte),
    s.exu.bus = some (a, since) → a.owner = .bulk id → s.orderOf id = some o →
    let waits := ∃ x ∈ s.exu.busWait, x.owner = .bulk id
    let ends := fun t : State => exec (.busAccessComplete true data) s = .next t.busFree
    (∀ w, o.owner = .fls → s.fls.readWork = some w →
      let n := min 4096 w.left
      (waits → ends s) ∧
      (¬waits → w.left = 0 → ends (State.accept { s with fls := { s.fls with readWork := none } } o (le 4 w.total))) ∧
      (¬waits → w.left ≠ 0 → ends (State.flashRequest { s with fls := { s.fls with readWork := some { w with
          addr := w.addr + w.piece, piece := n, left := w.left - n, dest := w.dest + w.piece } } }
        ⟨.readFlash, .read, w.addr + w.piece, n, [], .readFlash⟩))) ∧
    (∀ w, o.owner = .exu → s.exu.tableWork = some w →
      let written := w.written + 1
      let next := w.index + 1
      let dest := w.dest + entrySize w.table
      (waits → ends s) ∧
      (¬waits → w.left = 0 → ends (State.accept { s with exu := { s.exu with
        tableWork := none, readPos := some ⟨o.id, w.table, next, w.span - written⟩ } } o
        (le 2 written ++ le 2 next ++ le 2 (w.span - written)))) ∧
      (¬waits → w.left ≠ 0 → ends (State.bulkWrite { s with exu := { s.exu with tableWork := some { w with
          index := next, left := w.left - 1, written := written, dest := dest } } } o dest (s.entryBytes w.table next)))))

/-- The orders of a staging (R157, R159, R160, R161): each is answered CANCELLED when a CANCEL_STAGING withdrew it,
and refused in a state or on a trial that bars it. BEGIN_STAGING reads the 12 bytes of the manifest's head and then
the manifest; a bad one is BAD_PARAM, one beyond the area AREA_ERROR, one of the active image DUPLICATE; else fetch,
assemblies and staging serves end, both manifest sectors are erased, its pages are programmed, and the state is
STAGING with every chunk MISSING; a flash failure leaves IDLE with FLASH_ERROR. STAGE_CHUNK takes an assembly buffer
and reads the chunk's bytes, or waits for a buffer and takes the one freed next. RESUME_STAGING reads the staging
slot's manifest, is NOT_FOUND without a valid one of another image, and else rescans the chunks in order and ends in
STAGING or COMPLETE. That RESUME reads the manifest as 4096 bytes and then the rest, that BEGIN_STAGING erases
manifest sector 0 first and then sector 1 and programs the pages in rising order, and when and how it ends serves, are
the model's choices: log entries 18 and 28. -/
def Obligations.StagingOrdersAreWorked : Prop :=
  (∀ (s : State) (o : Order) (c : Instr), s.fls.boot = .done → s.headOrder .ups = some o → o.progress = .cancelled →
    (c = .beginStaging ∧ o.kind = 0x80) ∨ (c = .stageChunk ∧ o.kind = 0x81) ∨ (c = .resumeStaging ∧ o.kind = 0x82) →
    exec c s = .next (s.refuse o .cancelled)) ∧
  (∀ (s : State) (o : Order), s.fls.boot = .done → s.headOrder .ups = some o → o.progress = .fresh → o.kind = 0x80 →
    (s.fls.slot.trial = true → exec .beginStaging s = .next (s.finish o.id .refusedState reasonTrialPending [])) ∧
    (s.fls.slot.trial = false → s.ups.state ≠ .idle ∧ s.ups.state ≠ .complete →
      exec .beginStaging s = .next (s.refuse o .refusedState)) ∧
    (s.fls.slot.trial = false → s.ups.state = .idle ∨ s.ups.state = .complete →
      (o.u32 0 < 64 ∨ o.area.size < o.u32 0 + 12 → exec .beginStaging s = .next (s.refuse o .areaError)) ∧
      (64 ≤ o.u32 0 → o.u32 0 + 12 ≤ o.area.size → exec .beginStaging s =
        .next (((s.mark o.id .working).setWork (.beginHead o.id [])).bulkRead o (o.u32 0) 12)))) ∧
  (∀ (s : State) (o : Order), s.fls.boot = .done → s.headOrder .ups = some o → o.progress = .fresh → o.kind = 0x81 →
    let k := o.u16 0
    let offset := o.u32 2
    (s.ups.state ≠ .staging ∨ s.ups.manifest = none → exec .stageChunk s = .next (s.refuse o .refusedState)) ∧
    (∀ m, s.ups.state = .staging → s.ups.manifest = some m →
      (m.count ≤ k → exec .stageChunk s = .next (s.refuse o .badParam)) ∧
      (k < m.count →
        let entry := s.ups.map.getD k .missing
        let usable := 64 ≤ offset ∧ offset + m.chunkLen k ≤ o.area.size
        (entry = .present → exec .stageChunk s = .next (s.refuse o .duplicate)) ∧
        (entry = .writing → exec .stageChunk s = .next (s.refuse o .again)) ∧
        (entry = .missing → ¬usable → exec .stageChunk s = .next (s.refuse o .areaError)) ∧
        (∀ b, entry = .missing → usable → firstIx s.ups.bufs Option.isNone = some b →
          exec .stageChunk s = .next ((s.mark o.id .working).stageInto b o.id k offset)) ∧
        (entry = .missing → usable → firstIx s.ups.bufs Option.isNone = none →
          exec .stageChunk s = .next ((s.mark o.id .working).setWork (.stageWait o.id k offset)))))) ∧
  (∀ (s : State) (b : Fin 4) (id k offset : Nat) (o : Order) (m : Manifest),
    s.orderOf id = some o → s.ups.manifest = some m → s.stageInto b id k offset =
      State.bulkRead { s with ups := { s.ups with
        bufs := put s.ups.bufs b (some ⟨k, [], some id, .reading⟩), work := .stage id } } o offset (m.chunkLen k)) ∧
  (∀ (s : State) (b : Fin 4),
    let t := { s with ups := { s.ups with bufs := put s.ups.bufs b none } }
    (∀ id k offset, s.ups.work = .stageWait id k offset → s.freeBuf b = t.stageInto b id k offset) ∧
    ((∀ id k offset, s.ups.work ≠ .stageWait id k offset) → s.freeBuf b = t)) ∧
  (∀ (m : Manifest) (k : Nat), m.chunkLen k = if k + 1 = m.count then m.length - 4096 * (m.count - 1) else 4096) ∧
  (∀ (b : List Byte) (m : Manifest),
    let word := fun i => (BitVec.ofNat 32 (leAt b i 4) : Word)
    manifestOf b = some m ↔ m.id = word 0 ∧ m.length = leAt b 4 4 ∧ m.count = leAt b 8 2 ∧ m.id ≠ 0 ∧
      1 ≤ m.length ∧ m.length ≤ 7856128 ∧ m.count = (m.length + 4095) / 4096 ∧
      m.crcs = (List.range m.count).map (fun k => word (12 + 4 * k)) ∧
      word (12 + 4 * m.count) = crc32 (pad (12 + 4 * m.count) b)) ∧
  (∀ (s : State) (o : Order), s.fls.boot = .done → s.headOrder .ups = some o → o.progress = .fresh → o.kind = 0x82 →
    (s.fls.slot.trial = true → exec .resumeStaging s = .next (s.finish o.id .refusedState reasonTrialPending [])) ∧
    (s.fls.slot.trial = false → s.ups.state ≠ .idle → exec .resumeStaging s = .next (s.refuse o .refusedState)) ∧
    (s.fls.slot.trial = false → s.ups.state = .idle → exec .resumeStaging s =
      .next (((s.mark o.id .working).setWork (.resume o.id [])).flashRequest
        ⟨.staging, .read, slotBase s.fls.slot.active.other, 4096, [], .work⟩))) ∧
  (∀ (s : State) (a : Access) (since : Us) (id : Nat) (o : Order) (data : List Byte),
    s.exu.bus = some (a, since) → a.owner = .bulk id → a.write = false → data.length = a.len →
    s.orderOf id = some o → o.owner = .ups →
    let waits := ∃ x ∈ s.exu.busWait, x.owner = .bulk id
    let goesOn := fun t : State => exec (.busAccessComplete true data) s = .next t.busFree
    let ends := fun (t : State) (st : Status) => goesOn ((t.setWork .idle).finish id st 0 [])
    (∀ got, s.ups.work = .beginHead id got →
      let b := got ++ data
      let size := 16 + 4 * leAt b 8 2
      let bad := leAt b 8 2 = 0 ∨ 1918 < leAt b 8 2 ∨ leAt b 0 4 = 0
      let outside := o.u32 0 < 64 ∨ o.area.size < o.u32 0 + size
      (waits → goesOn (s.setWork (.beginHead id b))) ∧
      (¬waits → bad → ends s .badParam) ∧ (¬waits → ¬bad → outside → ends s .areaError) ∧
      (¬waits → ¬bad → ¬outside → goesOn ((s.setWork (.beginBody id size [])).bulkRead o (o.u32 0) size))) ∧
    (∀ size got, s.ups.work = .beginBody id size got →
      let b := got ++ data
      (waits → goesOn (s.setWork (.beginBody id size b))) ∧
      (¬waits → manifestOf b = none → ends s .badParam) ∧
      (∀ m, ¬waits → manifestOf b = some m →
        (m.id = s.activeId → ends s .duplicate) ∧
        (m.id ≠ s.activeId →
          let t := State.dropServes { s with ups := { s.ups with fetch := none, bufs := .replicate 4 none } }
          goesOn ((t.setWork (.beginErase id 0 b)).flashRequest
            ⟨.staging, .erase, slotBase s.fls.slot.active.other, 4096, [], .work⟩)))) ∧
    (∀ b x, s.ups.work = .stage id → s.ups.bufs.get b = some x → x.order = some id → x.phase = .reading →
      (∀ j < b, ∀ y, s.ups.bufs.get j = some y → ¬(y.order = some id ∧ y.phase = .reading)) →
      let y := { x with data := x.data ++ data }
      (waits → goesOn { s with ups := { s.ups with bufs := put s.ups.bufs b (some y) } }) ∧
      (¬waits → goesOn (s.writeChunk b y)))) ∧
  (∀ (s : State) (p : FlashOp) (since : Us) (data : List Byte),
    s.fls.op = some (p, since) → p.owner = .work → p.kind ≠ .read ∨ data.length = p.len →
    let base := slotBase s.fls.slot.active.other
    let goesOn := fun t : State => exec (.flashOperationComplete data) s = .next t.opEnds
    let ends := fun (t : State) (id : Nat) (st : Status) (results : List Byte) =>
      goesOn ((t.setWork .idle).finish id st 0 results)
    let programs := fun (id : Nat) (b : List Byte) (page : Nat) =>
      (s.setWork (.beginProgram id page b)).flashRequest ⟨.staging, .program, base + 256 * page,
        min 256 (b.length - 256 * page), (b.drop (256 * page)).take 256, .work⟩
    let scans := fun (t : State) (m : Manifest) (id k : Nat) => (t.setWork (.rescan id k)).flashRequest
      ⟨.staging, .read, base + (2 + k) * 4096, m.chunkLen k, [], .work⟩
    (∀ id b, s.ups.work = .beginErase id 0 b → goesOn ((s.setWork (.beginErase id 1 b)).flashRequest
      ⟨.staging, .erase, base + 4096, 4096, [], .work⟩)) ∧
    (∀ id b, s.ups.work = .beginErase id 1 b → goesOn (programs id b 0)) ∧
    (∀ id page b, s.ups.work = .beginProgram id page b →
      (256 * (page + 1) < b.length → goesOn (programs id b (page + 1))) ∧
      (∀ m, b.length ≤ 256 * (page + 1) → manifestOf b = some m → ends { s with ups := { s.ups with
        manifest := some m, map := List.replicate m.count .missing, state := .staging } } id .ok
        (le 4 m.id.toNat ++ le 2 m.count))) ∧
    (∀ id sector page b, s.ups.work = .beginErase id sector b ∨ s.ups.work = .beginProgram id page b →
      (p.kind = .erase ∧ 500000 ≤ (s.sck.us - since).toNat) ∨ (p.kind = .program ∧ 5000 ≤ (s.sck.us - since).toNat) →
      let t := { s with
        fls := { s.fls with stalled := true }, ups := { s.ups with state := .idle, manifest := none, map := [], work := .idle } }
      exec .flashTimeout s = .next (t.finish id .flashError 0 []).opEnds) ∧
    (∀ id got, p.kind = .read → s.ups.work = .resume id got →
      let b := got ++ data
      let longer := b.length = 4096 ∧ 1 ≤ leAt b 8 2 ∧ leAt b 8 2 ≤ 1918 ∧ leAt b 0 4 ≠ 0 ∧ 4096 < 16 + 4 * leAt b 8 2
      (longer → goesOn ((s.setWork (.resume id b)).flashRequest
        ⟨.staging, .read, base + 4096, 16 + 4 * leAt b 8 2 - 4096, [], .work⟩)) ∧
      (¬longer → manifestOf b = none ∨ (∃ m, manifestOf b = some m ∧ m.id = s.activeId) → ends s id .notFound []) ∧
      (∀ m, ¬longer → manifestOf b = some m → m.id ≠ s.activeId → goesOn (scans { s with ups := { s.ups with
        manifest := some m, map := List.replicate m.count .missing, state := .rescanning } } m id 0))) ∧
    (∀ id k m, p.kind = .read → s.ups.work = .rescan id k → s.ups.manifest = some m →
      let map := if crc32 data = m.crcs.getD k 0 then s.ups.map.set k .present else s.ups.map
      let t := { s with ups := { s.ups with map := map } }
      let held := (map.filter fun c => c == .present).length
      let result := fun code : Byte => [code] ++ le 4 m.id.toNat ++ le 2 held
      (k + 1 < m.count → goesOn (scans t m id (k + 1))) ∧
      (m.count ≤ k + 1 → held ≠ map.length → ends { t with ups := { t.ups with state := .staging } } id .ok (result 1)) ∧
      (m.count ≤ k + 1 → held = map.length → ends { t with
        ups := { t.ups with state := .complete, fetch := none }
        exu := { t.exu with arrivals := t.exu.arrivals ++ [⟨.stagingComplete, 0, s.sck.ms, le 4 m.id.toNat⟩] } } id .ok
        (result 3)))) ∧
  (slotBase .a = 0x100000 ∧ slotBase .b = 0x880000 ∧ Slot.a.other = .b ∧ Slot.b.other = .a ∧
    ∀ (s : State) (w : UpsWork), s.setWork w = { s with ups := { s.ups with work := w } }) ∧
  (∀ s : State,
    let t := { s with ups := { s.ups with serves := s.ups.serves.filter fun e => e.id == s.activeId } }
    ((∀ e, s.ups.serving = some e → e.id = s.activeId) → s.dropServes = t) ∧
    (∀ e, s.ups.serving = some e → e.id ≠ s.activeId → s.dropServes = { t with
      ups := { t.ups with serving := none }
      fls := { s.fls with
        waiting := s.fls.waiting.filter fun p => p.owner != .serve
        op := s.fls.op.map fun p => if p.1.owner = .serve then ({ p.1 with owner := .nobody }, p.2) else p } }))

/-- A chunk write (R158, R159): a chunk whose CRC-32 is not the manifest's frees its buffer and gives CHUNK_FAILED
with cause CRC; one whose entry is WRITING or PRESENT ends there; else the entry is WRITING and the sector is erased,
its pages of 256 bytes are programmed in order, and the chunk is read back. With its CRC-32 right the entry is
PRESENT, the buffer is freed and the order answered OK with the chunk and the count not PRESENT; when none is left the
state is COMPLETE with STAGING_COMPLETE. A failed operation or a wrong CRC-32 leaves the entry MISSING with
CHUNK_FAILED and FLASH_ERROR. A fetch then goes on (R162): with no chunk MISSING it waits; with no batch under way, or
with its batch PRESENT, it asks the same source for the next. -/
def Obligations.ChunkIsWrittenVerifiedAndCounted : Prop :=
  let ends := fun (s : State) (order : Option Nat) (st : Status) (results : List Byte) => match order with
    | some id => (s.setWork .idle).finish id st 0 results
    | none => s
  let failed := fun (s : State) (k : Nat) (cause : Byte) =>
    { s with exu := { s.exu with arrivals := s.exu.arrivals ++ [⟨.chunkFailed, k, s.sck.ms, [cause]⟩] } }
  let lost := fun (s : State) (b : Fin 4) (x : Buf) (cause : Byte) => State.fetchGoesOn (ends (failed
    (State.freeBuf { s with ups := { s.ups with map := s.ups.map.set x.chunk .missing } } b) x.chunk cause) x.order .flashError [])
  (∀ (s : State) (b : Fin 4) (x : Buf) (m : Manifest), s.ups.manifest = some m →
    let entry := s.ups.map.getD x.chunk .present
    (crc32 x.data ≠ m.crcs.getD x.chunk 0 →
      s.writeChunk b x = ends (failed (s.freeBuf b) x.chunk 0) x.order .crcMismatch []) ∧
    (crc32 x.data = m.crcs.getD x.chunk 0 →
      (entry = .writing → s.writeChunk b x = ends (s.freeBuf b) x.order .again []) ∧
      (entry = .present → s.writeChunk b x = ends (s.freeBuf b) x.order .duplicate []) ∧
      (entry = .missing → s.writeChunk b x = State.fetchGoesOn (State.flashRequest { s with ups := { s.ups with
          map := s.ups.map.set x.chunk .writing, bufs := put s.ups.bufs b (some { x with phase := .erasing }) } }
        ⟨.staging, .erase, slotBase s.fls.slot.active.other + (2 + x.chunk) * 4096, 4096, [], .buf b⟩)))) ∧
  (∀ (s : State) (p : FlashOp) (since : Us) (data : List Byte) (b : Fin 4) (x : Buf),
    s.fls.op = some (p, since) → p.owner = .buf b → s.ups.bufs.get b = some x → p.kind ≠ .read ∨ data.length = p.len →
    let addr := slotBase s.fls.slot.active.other + (2 + x.chunk) * 4096
    let goesOn := fun t : State => exec (.flashOperationComplete data) s = .next t.opEnds
    let phase := fun (q : BufPhase) (o : FlashOp) => State.flashRequest { s with ups := { s.ups with
      bufs := put s.ups.bufs b (some { x with phase := q }) } } o
    let programs := fun k => phase (.programming k)
      ⟨.staging, .program, addr + 256 * k, min 256 (x.data.length - 256 * k), (x.data.drop (256 * k)).take 256, .buf b⟩
    (x.phase = .erasing → goesOn (programs 0)) ∧
    (∀ k, x.phase = .programming k →
      (256 * (k + 1) < x.data.length → goesOn (programs (k + 1))) ∧
      (x.data.length ≤ 256 * (k + 1) →
        goesOn (phase .verifying ⟨.staging, .read, addr, x.data.length, [], .buf b⟩))) ∧
    (∀ m, x.phase = .verifying → p.kind = .read → s.ups.manifest = some m →
      (crc32 data ≠ m.crcs.getD x.chunk 0 → goesOn (lost s b x 2)) ∧
      (crc32 data = m.crcs.getD x.chunk 0 →
        let t := State.freeBuf { s with ups := { s.ups with map := s.ups.map.set x.chunk .present } } b
        let left := (t.ups.map.filter fun c => c != .present).length
        let u := ends t x.order .ok (le 2 x.chunk ++ le 2 left)
        (left = 0 → goesOn { u with
          ups := { u.ups with state := .complete, fetch := none }
          exu := { u.exu with arrivals := u.exu.arrivals ++ [⟨.stagingComplete, 0, s.sck.ms, le 4 m.id.toNat⟩] } }) ∧
        (left ≠ 0 → goesOn u.fetchGoesOn))) ∧
    ((p.kind = .erase ∧ 500000 ≤ (s.sck.us - since).toNat) ∨ (p.kind = .program ∧ 5000 ≤ (s.sck.us - since).toNat) →
      exec .flashTimeout s = .next (lost { s with fls := { s.fls with stalled := true } } b x 1).opEnds)) ∧
  (∀ s : State, (∀ f, s.ups.fetch = some f → f.source = none) → s.fetchGoesOn = s) ∧
  (∀ (s : State) (f : Fetch) (n : Node), s.ups.fetch = some f → f.source = some n →
    let missing := (List.range s.ups.map.length).filter fun k => s.ups.map.getD k .present == .missing
    let resolved := f.deadline = none ∨ ∀ k ∈ f.batch, s.ups.map.getD k .missing = .present
    (missing = [] →
      s.fetchGoesOn = { s with ups := { s.ups with fetch := some ⟨some n, [], none, none⟩ } }) ∧
    (missing ≠ [] → resolved → s.fetchGoesOn = s.sendWant n) ∧ (missing ≠ [] → ¬resolved → s.fetchGoesOn = s))

/-- CANCEL_STAGING (R161): as it joins, a staging under way is dropped: the stager is IDLE with no manifest, chunk
map, buffer or fetch, the serves of the active image alone stay, its orders not yet answered are withdrawn, its
waiting flash work and the interrupted order's bulk transfer go, what is then on the flash or the bus ends for nobody,
and the manifest's first sector is erased. In IDLE there is nothing to do and in a hold it is refused. In its turn it
is answered OK, REFUSED_STATE or, when the erase failed, FLASH_ERROR. -/
def Obligations.CancelStagingDropsTheStaging : Prop :=
  (∀ (s : State) (id : Nat), s.ups.state = .staging ∨ s.ups.state = .complete ∨ s.ups.state = .rescanning →
    let work := s.ups.work.stagingOrder
    let staged := fun e : Serve => e.id != s.activeId
    let dropped : FlashOwner → Bool := fun w => match w with
      | .buf _ => true
      | .work => work.isSome
      | .serve => (s.ups.serving.filter staged).isSome
      | .nobody | .boot | .readFlash | .cancel _ => false
    let bulk : Access → Bool := fun a => match work with
      | some i => a.owner == .bulk i
      | none => false
    let t : State := { s with
      ups := { s.ups with
        state := .idle, manifest := none, map := [], fetch := none, bufs := .replicate 4 none
        serves := s.ups.serves.filter fun e => !staged e
        serving := s.ups.serving.filter fun e => !staged e
        work := if work.isSome then .idle else s.ups.work }
      fls := { s.fls with
        waiting := s.fls.waiting.filter fun p => !dropped p.owner
        op := s.fls.op.map fun p => if dropped p.1.owner then ({ p.1 with owner := .nobody }, p.2) else p }
      exu := { s.exu with
        busWait := s.exu.busWait.filter fun a => !bulk a
        bus := s.exu.bus.map fun p => if bulk p.1 then ({ p.1 with owner := .nobody }, p.2) else p
        inFlight := s.exu.inFlight.map fun o => if o.id = id then { o with progress := .cancelErasing }
          else if o.owner = .ups ∧ o.ended = false ∧ (o.kind = 0x80 ∨ o.kind = 0x81 ∨ o.kind = 0x82) then
            { o with progress := .cancelled } else o } }
    s.cancelJoins id =
      t.flashRequest ⟨.staging, .erase, slotBase s.fls.slot.active.other, 4096, [], .cancel id⟩) ∧
  (∀ w : UpsWork, w.stagingOrder = match w with
    | .beginHead i _ | .beginBody i _ _ | .beginErase i _ _ | .beginProgram i _ _ | .stageWait i _ _ | .stage i
    | .resume i _ | .rescan i _ => some i
    | .idle | .slotErase _ _ _ | .slotProgram _ _ _ => none) ∧
  (∀ (s : State) (id : Nat), s.ups.state = .idle → s.cancelJoins id = s.mark id .cancelNothing) ∧
  (∀ (s : State) (id : Nat), s.ups.state = .hold → s.cancelJoins id = s.mark id .cancelRefused) ∧
  (∀ (s : State) (p : FlashOp) (since : Us) (data : List Byte) (id : Nat),
    s.fls.op = some (p, since) → p.owner = .cancel id →
    exec (.flashOperationComplete data) s = .next (s.mark id .cancelErased).opEnds ∧
    (p.kind = .erase → 500000 ≤ (s.sck.us - since).toNat → exec .flashTimeout s =
      .next (State.mark { s with fls := { s.fls with stalled := true } } id .cancelFailed).opEnds)) ∧
  (∀ (s : State) (o : Order), s.fls.boot = .done → s.headOrder .ups = some o → o.kind = 0x83 →
    (o.progress = .fresh → exec .cancelStaging s = .next (s.cancelJoins o.id)) ∧
    (o.progress = .cancelNothing ∨ o.progress = .cancelErased → exec .cancelStaging s = .next (s.accept o [])) ∧
    (o.progress = .cancelRefused → exec .cancelStaging s = .next (s.refuse o .refusedState)) ∧
    (o.progress = .cancelFailed → exec .cancelStaging s = .next (s.refuse o .flashError)))

/-- The fetch (R162): FETCH_FROM_PEERS is answered OK in STAGING with no fetch running and selects a source; the batch
deadline, the retry of a selection, and a CHUNK_NONE of the source that is not BUSY select the next. The next source
is the qualifying peer first met in rising node order after the present one, round to the lowest and to the present
one last; the first selection takes the lowest. A selection with no qualifying peer gives FETCH_STALLED and waits 2000
ms; one with a peer asks it for the 8 lowest MISSING chunks, and only waits when none is MISSING. That the image a
CHUNK_NONE names is not compared, and that the source is then NONE when none qualifies, are the model's choices: log
entry 28; so is that any nonzero BUSY byte is true: log entry 30. -/
def Obligations.FetchSelectsItsSources : Prop :=
  (∀ s o, s.fls.boot = .done → s.freshHead .ups 0x84 = some o →
    (s.ups.state ≠ .staging → exec .fetchFromPeers s = .next (s.refuse o .refusedState)) ∧
    (s.ups.state = .staging → s.ups.fetch.isSome = true → exec .fetchFromPeers s = .next (s.refuse o .duplicate)) ∧
    (s.ups.state = .staging → s.ups.fetch = none →
      exec .fetchFromPeers s = .next ((s.accept o []).selectSource ⟨none, [], none, none⟩))) ∧
  (∀ s f t, s.ups.fetch = some f → f.deadline = some t →
    (reached s.sck.ms t = true → exec .batchDeadline s = .next (s.selectSource f)) ∧
    (reached s.sck.ms t = false → exec .batchDeadline s = .next s)) ∧
  (∀ s f t, s.ups.fetch = some f → f.retryAt = some t →
    (reached s.sck.ms t = true → exec .selectionRetry s = .next (s.selectSource f)) ∧
    (reached s.sck.ms t = false → exec .selectionRetry s = .next s)) ∧
  (∀ s m rest, s.ups.messages = m :: rest → m.kind = kChunkNone →
    let t := { s with ups := { s.ups with messages := rest } }
    (∀ f, s.ups.fetch = some f → f.source = some m.sender → byteAt m.body 4 = 0 →
      exec .chunkNone s = .next (t.selectSource f)) ∧
    ((∀ f, s.ups.fetch = some f → f.source ≠ some m.sender) ∨ byteAt m.body 4 ≠ 0 → exec .chunkNone s = .next t)) ∧
  (∀ (s : State) (source : Option Node),
    let id := match s.ups.manifest with
      | some m => m.id
      | none => 0
    let ok := fun n : Node => ∃ q, s.findPeer n.val = some q ∧ q.present = true ∧
      ((q.stagedComplete = true ∧ q.stagingId = id) ∨ q.activeId = id)
    let order := fun n : Node => match source with
      | none => n.val
      | some m => (n.val + 7 - m.val) % 8
    (s.nextSource source = none ↔ ∀ n, ¬ok n) ∧
    (∀ n, s.nextSource source = some n ↔ ok n ∧ ∀ m, ok m → order n ≤ order m)) ∧
  (∀ (s : State) (f : Fetch),
    (s.nextSource f.source = none → s.selectSource f = { s with
      exu := { s.exu with arrivals := s.exu.arrivals ++ [⟨.fetchStalled, 0, s.sck.ms, []⟩] }
      ups := { s.ups with fetch := some ⟨none, [], none, some (s.sck.ms + 2000)⟩ } }) ∧
    (∀ n, s.nextSource f.source = some n → s.selectSource f = s.sendWant n)) ∧
  (∀ (s : State) (n : Node),
    let id : Word := match s.ups.manifest with
      | some m => m.id
      | none => 0
    let batch := ((List.range s.ups.map.length).filter fun k => s.ups.map.getD k .present == .missing).take 8
    (batch = [] → s.sendWant n = { s with ups := { s.ups with fetch := some ⟨some n, [], none, none⟩ } }) ∧
    (batch ≠ [] → s.sendWant n =
      let t := s.sendTo n kChunkWant (be 4 id.toNat ++ [BitVec.ofNat 8 batch.length] ++ (batch.map fun k => be 2 k).flatten)
      { t with ups := { t.ups with fetch := some ⟨some n, batch, some (s.sck.ms + 2000), none⟩ } }))

/-- A fragment (R162) that fits a MISSING chunk of the staging manifest goes into the chunk's assembly, which opens a
free buffer for the first, or is lost without one; any other is only taken. A place already filled keeps its bytes, and
an assembly that is whole is written as the chunk. An assembly open for 1000 ms is dropped. -/
def Obligations.FragmentsFillAnAssembly : Prop :=
  (∀ s m rest, s.ups.messages = m :: rest → m.kind = kChunkData →
    let t := { s with ups := { s.ups with messages := rest } }
    let k := beAt m.body 4 2
    let f := (byteAt m.body 6).toNat
    let data := m.body.drop 9
    (∀ x, s.ups.state = .staging → s.ups.manifest = some x →
      let fits := (BitVec.ofNat 32 (beAt m.body 0 4) : Word) = x.id ∧ k < x.count ∧
        s.ups.map.getD k .missing = .missing ∧ 1024 * f < x.chunkLen k ∧ data.length = min 1024 (x.chunkLen k - 1024 * f)
      (fits → exec .chunkData s = .next (t.takeFragment k (x.chunkLen k) f data)) ∧
      (¬fits → exec .chunkData s = .next t)) ∧
    (s.ups.state ≠ .staging ∨ s.ups.manifest = none → exec .chunkData s = .next t)) ∧
  (∀ (s : State) (k len f : Nat) (data : List Byte),
    let opens := fun (b : Fin 4) (places : List (Option (List Byte))) (opened : Ms) =>
      ∃ x, s.ups.bufs.get b = some x ∧ x.chunk = k ∧ x.phase = .assembling places opened
    let filled := fun places : List (Option (List Byte)) =>
      if (places.getD f none).isSome then places else places.set f (some data)
    let fills := fun (b : Fin 4) (places : List (Option (List Byte))) (opened : Ms) =>
      ((∀ p ∈ filled places, p.isSome = true) → s.takeFragment k len f data = s.writeChunk b
        ⟨k, ((filled places).map fun p => p.getD []).flatten, none, .assembling (filled places) opened⟩) ∧
      ((∃ p ∈ filled places, p = none) → s.takeFragment k len f data = { s with ups := { s.ups with
        bufs := put s.ups.bufs b (some ⟨k, [], none, .assembling (filled places) opened⟩) } })
    (∀ b places opened, opens b places opened → (∀ j < b, ∀ p o, ¬opens j p o) → fills b places opened) ∧
    ((∀ b p o, ¬opens b p o) →
      (∀ b, s.ups.bufs.get b = none → (∀ j < b, s.ups.bufs.get j ≠ none) →
        fills b (List.replicate ((len + 1023) / 1024) none) s.sck.ms) ∧
      ((∀ b, s.ups.bufs.get b ≠ none) → s.takeFragment k len f data = s))) ∧
  (∀ (s : State) (b : Fin 4) (x : Buf) places opened, s.ups.bufs.get b = some x → x.phase = .assembling places opened →
    (pastBy s.sck.ms opened 1000 = true → exec (.assemblyTimeout b) s = .next (s.freeBuf b)) ∧
    (pastBy s.sck.ms opened 1000 = false → exec (.assemblyTimeout b) s = .next s))

/-- Serving (R163): a CHUNK_WANT puts each chunk this node can serve at the tail of the serve list, once, while the
list has fewer than 32 entries, and answers the others with one CHUNK_NONE each for those not servable and those
refused BUSY. A serve starts when none is under way and the gap has passed, for a PRESENT peer and a chunk still
servable, with the read of the chunk; else its entry goes. The chunk read is sent in fragments of 1024 bytes until one
does not join; then the gap doubles up to 1280 ms, and else at each tenth serve it halves, not below the minimum. That
the gap is measured in microseconds is the model's choice, log entry 22; that a serve waits for the end of the one
before, that a chunk is read by one read and its fragments go in rising order at its end, that an entry dropped starts
no gap and an odd gap halves down, that the CHUNK_NONE of unservable chunks is sent before the BUSY one, that a wanted
id is compared with the active image id of the slot record's copy and never with the id in the active slot's manifest,
and that a chunk servable both ways is read from the active slot, log entry 28; that a fragment the Mesh Link
Controller cannot send counts as dropped, log entry 18. -/
def Obligations.ChunksAreListedAndServed : Prop :=
  (∀ s m rest, s.ups.messages = m :: rest → m.kind = kChunkWant →
    let id : Word := BitVec.ofNat 32 (beAt m.body 0 4)
    let chunks := (List.range (byteAt m.body 4).toNat).map fun k => beAt m.body (5 + 2 * k) 2
    let can := chunks.filter fun k => (s.servable id k).isSome
    let cannot := chunks.filter fun k => !(s.servable id k).isSome
    let list := can.foldl (fun (l : List Serve) k =>
      if l.contains ⟨m.sender, id, k⟩ = true ∨ 32 ≤ l.length then l else l ++ [⟨m.sender, id, k⟩]) s.ups.serves
    let full := can.filter fun k => !list.contains ⟨m.sender, id, k⟩
    let told := fun (u : State) (busy : Byte) (l : List Nat) => if l = [] then u else u.sendTo m.sender kChunkNone
      (be 4 id.toNat ++ [busy, BitVec.ofNat 8 l.length] ++ (l.map fun k => be 2 k).flatten)
    exec .chunkWant s = .next (told (told { s with ups := { s.ups with messages := rest, serves := list } } 0 cannot) 1 full)) ∧
  (∀ (s : State) (id : Word) (k : Nat) (slot : Slot) (m : Manifest),
    let active := fun m : Manifest => s.fls.activeManifest = some m ∧ id = s.activeId ∧ k < m.count
    s.servable id k = some (slot, m) ↔ (active m ∧ slot = s.fls.slot.active) ∨
      ((∀ n, ¬active n) ∧ s.ups.manifest = some m ∧ id = m.id ∧ s.ups.map.getD k .missing = .present ∧
        slot = s.fls.slot.active.other)) ∧
  (∀ (s : State) (e : Serve) (rest : List Serve), s.ups.serves = e :: rest → s.ups.serving = none →
    let gone := ∀ t, s.ups.lastServe = some t → s.ups.serveGap * 1000 ≤ (s.sck.us - t).toNat
    let t := { s with ups := { s.ups with serves := rest } }
    (¬gone → exec .serveStart s = .next s) ∧
    (gone → s.servable e.id e.chunk = none ∨ s.peerPresent e.node = false → exec .serveStart s = .next t) ∧
    (∀ slot m, gone → s.servable e.id e.chunk = some (slot, m) → s.peerPresent e.node = true → exec .serveStart s =
      .next (State.flashRequest { t with ups := { t.ups with serving := some e, lastServe := some s.sck.us } }
        ⟨.serve, .read, slotBase slot + (2 + e.chunk) * 4096, m.chunkLen e.chunk, [], .serve⟩))) ∧
  (∀ (s : State) (p : FlashOp) (since : Us) (data : List Byte) (e : Serve),
    s.fls.op = some (p, since) → p.owner = .serve → p.kind = .read → data.length = p.len → s.ups.serving = some e →
    let sent := State.sendFragments e data (List.range ((data.length + 1023) / 1024)) s
    let u := sent.1.ups
    exec (.flashOperationComplete data) s = .next (State.opEnds { sent.1 with ups :=
      if sent.2 = false then { u with serving := none, cleanServes := 0, serveGap := min 1280 (2 * u.serveGap) }
      else if u.cleanServes < 9 then { u with serving := none, cleanServes := u.cleanServes + 1 }
      else { u with serving := none, cleanServes := 0, serveGap := max u.gapMin (u.serveGap / 2) } })) ∧
  (∀ (s : State) (e : Serve) (data : List Byte),
    State.sendFragments e data [] s = (s, true) ∧
    ∀ f rest,
      let piece := (data.drop (1024 * f)).take 1024
      let r := s.send e.node kChunkData
        (be 4 e.id.toNat ++ be 2 e.chunk ++ [BitVec.ofNat 8 f] ++ be 2 piece.length ++ piece)
      (r.2 = .joined → State.sendFragments e data (f :: rest) s = State.sendFragments e data rest r.1) ∧
      (r.2 ≠ .joined → State.sendFragments e data (f :: rest) s = (r.1, false)))

/-- The install window and grant (R151, R164): SET_UPDATE_WINDOW writes the window and the clamped limit and gap;
REQUEST_INSTALL in a hold is OK, with a condition open DEFERRED with the open conditions as its detail bits, and else
granted: the hold begins and every WATCHED record is ACTIVE again without its query. -/
def Obligations.InstallIsGrantedOrDeferred : Prop :=
  (∀ s o, s.fls.boot = .done → s.freshHead .ups 0x85 = some o →
    let w : Window := ⟨BitVec.ofNat 7 (o.u8 0), o.u16 1, o.u16 3⟩
    let limit := min 120 (max 1 (o.u8 5))
    let gap := min 1000 (max 5 (o.u16 6))
    (1439 < o.u16 1 ∨ 1439 < o.u16 3 → exec .setUpdateWindow s = .next (s.refuse o .badParam)) ∧
    (o.u16 1 ≤ 1439 → o.u16 3 ≤ 1439 → exec .setUpdateWindow s = .next (State.accept { s with ups := { s.ups with
      window := w, holdLimit := limit, gapMin := gap, serveGap := max gap s.ups.serveGap } } o
      ([w.mask.setWidth 8] ++ le 2 w.start ++ le 2 w.stop ++ [BitVec.ofNat 8 limit] ++ le 2 gap)))) ∧
  (∀ s o, s.fls.boot = .done → s.freshHead .ups 0x86 = some o →
    let moving := ∃ r ∈ s.stt.recs.toList,
      r.state = .offering ∨ r.state = .moving ∨ r.state = .withdrawing ∨ r.state = .reserved
    let open_ := s.windowOpen s.ups.window (s.sck.weekday, s.sck.minute) = true
    let ready := s.ups.state = .complete ∧ s.sck.set = true ∧ open_ ∧ s.gameQuiet = true ∧ ¬moving
    (s.ups.state = .hold → exec .requestInstall s = .next (s.accept o [])) ∧
    (s.ups.state ≠ .hold → ¬ready → ∃ d : Byte, exec .requestInstall s = .next (s.finish o.id .deferred d []) ∧
      (d.getLsbD 0 = true ↔ s.ups.state ≠ .complete) ∧ (d.getLsbD 1 = true ↔ s.sck.set = false) ∧
      (d.getLsbD 2 = true ↔ ¬open_) ∧ (d.getLsbD 3 = true ↔ s.gameQuiet = false) ∧ (d.getLsbD 4 = true ↔ moving)) ∧
    (s.ups.state ≠ .hold → ready → exec .requestInstall s = .next (State.accept { s with
      ups := { s.ups with state := .hold, holdMinutes := 0 }
      stt := { s.stt with recs := s.stt.recs.map fun (r : Station) =>
        if r.state = .watched then { r with state := .active, query := none, runOn := 0 } else r } } o []))) ∧
  (∀ s : State, s.gameQuiet = true ↔ s.flc.lastGame = none ∨
    ∃ t, s.flc.lastGame = some t ∧ pastBy s.sck.ms t (s.flc.quiet * 60000) = true)

/-- The end of a hold (R165): a minute counts toward the limit, and at the limit the hold ends EXPIRED unless a commit
is being written; CANCEL_INSTALL ends it CANCELLED; COMMIT_IMAGE writes a record with the staging slot active on trial
with three starts, and CONFIRM_IMAGE one with the trial ended, each by erase and then program of the slot record's
sector, and each refused outside its state. When the record is written it is in use, the order is answered OK, and a
commit leaves the stager IDLE without manifest and gives HOLD_END COMMITTED, the new active slot's manifest being the
staged one. A failed erase or program answers FLASH_ERROR and leaves the record as it was. That the limit counts as
reached at its last minute, that a hold whose limit was lowered to or below its count ends at the next minute, and that a
hold whose limit passed during a failed commit ends EXPIRED with its answer, are the model's choices: log entry 22. -/
def Obligations.HoldEndsByMinuteCancelOrCommit : Prop :=
  let ended := fun (s : State) (cause : Byte) => { s with
    ups := { s.ups with state := .complete, holdMinutes := 0 }
    exu := { s.exu with arrivals := s.exu.arrivals ++ [⟨.holdEnd, 0, s.sck.ms, [cause]⟩] } }
  (∀ s e rest, s.ups.minutes = e :: rest →
    let t := { s with ups := { s.ups with minutes := rest } }
    let u := { t with ups := { t.ups with holdMinutes := t.ups.holdMinutes + 1 } }
    let committing := ∃ id r, s.ups.work = .slotErase id r true ∨ s.ups.work = .slotProgram id r true
    let ends := s.ups.holdLimit ≤ s.ups.holdMinutes + 1 ∧ ¬committing
    (s.ups.state ≠ .hold → exec .holdMinuteCount s = .next t) ∧
    (s.ups.state = .hold → ends → exec .holdMinuteCount s = .next (ended u 2)) ∧
    (s.ups.state = .hold → ¬ends → exec .holdMinuteCount s = .next u)) ∧
  (∀ s o, s.fls.boot = .done → s.freshHead .ups 0x88 = some o →
    (s.ups.state = .hold → exec .cancelInstall s = .next ((ended s 1).accept o [])) ∧
    (s.ups.state ≠ .hold → exec .cancelInstall s = .next (s.refuse o .refusedState))) ∧
  (∀ s o, s.fls.boot = .done → s.freshHead .ups 0x87 = some o →
    let old := s.fls.slot
    let staged := old.active.other
    let r : SlotRecord := ⟨staged, old.active, true, 3, if staged = .a then s.stagingId else old.idA,
      if staged = .b then s.stagingId else old.idB⟩
    (s.ups.state = .hold → exec .commitImage s = .next (((s.mark o.id .working).setWork (.slotErase o.id r true)).flashRequest
      ⟨.slotRecord, .erase, 0x0FF000, 4096, [], .work⟩)) ∧
    (s.ups.state ≠ .hold → exec .commitImage s = .next (s.refuse o .refusedState))) ∧
  (∀ s o, s.fls.boot = .done → s.freshHead .ups 0x89 = some o →
    let r := { s.fls.slot with trial := false, remaining := 0 }
    (s.fls.slot.trial = true → exec .confirmImage s =
      .next (((s.mark o.id .working).setWork (.slotErase o.id r false)).flashRequest
        ⟨.slotRecord, .erase, 0x0FF000, 4096, [], .work⟩)) ∧
    (s.fls.slot.trial = false → exec .confirmImage s = .next (s.refuse o .refusedState))) ∧
  (∀ (s : State) (p : FlashOp) (since : Us) (data : List Byte) (id : Nat) (r : SlotRecord) (commit : Bool),
    s.fls.op = some (p, since) → p.owner = .work →
    (s.ups.work = .slotErase id r commit → exec (.flashOperationComplete data) s =
      .next (State.opEnds ((s.setWork (.slotProgram id r commit)).flashRequest
        ⟨.slotRecord, .program, 0x0FF000, 16, r.bytes, .work⟩))) ∧
    (s.ups.work = .slotProgram id r commit → exec (.flashOperationComplete data) s =
      let t := if commit then { s with
          fls := { s.fls with slot := r, activeManifest := s.ups.manifest }
          ups := { s.ups with state := .idle, manifest := none, map := [], holdMinutes := 0, work := .idle }
          exu := { s.exu with arrivals := s.exu.arrivals ++ [⟨.holdEnd, 0, s.sck.ms, [0]⟩] } }
        else { s with fls := { s.fls with slot := r }, ups := { s.ups with work := .idle } }
      .next (t.finish id .ok 0 []).opEnds) ∧
    (s.ups.work = .slotErase id r commit ∨ s.ups.work = .slotProgram id r commit →
      (p.kind = .erase ∧ 500000 ≤ (s.sck.us - since).toNat) ∨ (p.kind = .program ∧ 5000 ≤ (s.sck.us - since).toNat) →
      let t := State.finish { s with
        fls := { s.fls with stalled := true }, ups := { s.ups with work := .idle } } id .flashError 0 []
      let past := commit = true ∧ s.ups.state = .hold ∧ s.ups.holdLimit ≤ s.ups.holdMinutes
      exec .flashTimeout s = .next (if past then ended t 2 else t).opEnds))
end

