-- ==== Sys2Proof/Laws/Vectors.lean ====
section
/-!
SUPPORT. What the small operations on vectors, lists and codes of Machine/Bits.lean do, said once.
-/

namespace Sys2Proof.Machine

open Sys2Proof

/-! ## Vectors -/

theorem get_eq_getElem (v : Vector α n) (i : Fin n) : v.get i = v[i.val] := rfl

@[simp] theorem get_replicate (n : Nat) (x : α) (i : Fin n) : (Vector.replicate n x).get i = x := by
  rw [get_eq_getElem, Vector.getElem_replicate]

@[simp] theorem get_map (f : α → β) (v : Vector α n) (i : Fin n) : (v.map f).get i = f (v.get i) := by
  rw [get_eq_getElem, Vector.getElem_map, get_eq_getElem]

@[simp] theorem get_ofFn (f : Fin n → α) (i : Fin n) : (Vector.ofFn f).get i = f i := by
  rw [get_eq_getElem, Vector.getElem_ofFn]

@[simp] theorem get_put_same (v : Vector α n) (i : Fin n) (x : α) : (put v i x).get i = x := by
  rw [put, get_eq_getElem, Vector.getElem_set_self]

theorem get_put_ne (v : Vector α n) {i j : Fin n} (x : α) (h : j ≠ i) : (put v i x).get j = v.get j := by
  have hij : (i : Nat) ≠ j := fun e => h (Fin.ext e.symm)
  rw [put, get_eq_getElem, Vector.getElem_set_ne _ _ hij, get_eq_getElem]

theorem get_put (v : Vector α n) (i j : Fin n) (x : α) : (put v i x).get j = if j = i then x else v.get j := by
  split
  · next h => rw [h, get_put_same]
  · next h => exact get_put_ne v x h

theorem put_get_self (v : Vector α n) (i : Fin n) : put v i (v.get i) = v := by
  rw [put, get_eq_getElem, Vector.set_getElem_self]

theorem vector_ext_get {v w : Vector α n} (h : ∀ i, v.get i = w.get i) : v = w :=
  Vector.ext fun i hi => h ⟨i, hi⟩

/-- The first index that satisfies `p` does satisfy it. -/
theorem firstIx_some {v : Vector α n} {p : α → Bool} {i : Fin n} (h : firstIx v p = some i) :
    p (v.get i) = true := by
  simpa using List.find?_some h

/-- Below the first index no entry satisfies `p`. -/
theorem firstIx_first {v : Vector α n} {p : α → Bool} {i j : Fin n} (h : firstIx v p = some i) (hj : j < i) :
    p (v.get j) = false := by
  obtain ⟨_, before, after, hl, hb⟩ := List.find?_eq_some_iff_append.mp h
  have hi : before.length = i.val := by
    have := congrArg (fun l => l[before.length]?) hl
    simp only [List.getElem?_append_right (Nat.le_refl _), Nat.sub_self, List.getElem?_cons_zero] at this
    obtain ⟨h1, h2⟩ := List.getElem?_eq_some_iff.mp this
    simpa using congrArg Fin.val h2
  have hm : j ∈ before := by
    have := congrArg (fun l => l[j.val]?) hl
    have hj' : j.val < before.length := by omega
    simp only [List.getElem?_append_left hj'] at this
    rw [List.getElem?_eq_getElem (by simp), List.getElem_finRange] at this
    exact List.mem_of_getElem? this.symm
  simpa using hb j hm

/-- With no first index, no entry satisfies `p`. -/
theorem firstIx_none {v : Vector α n} {p : α → Bool} (h : firstIx v p = none) (i : Fin n) : p (v.get i) = false := by
  simpa using List.find?_eq_none.mp h i (List.mem_finRange i)

/-- An entry that satisfies `p` gives a first index. -/
theorem firstIx_isSome {v : Vector α n} {p : α → Bool} {i : Fin n} (h : p (v.get i) = true) :
    ∃ j, firstIx v p = some j := by
  cases e : firstIx v p with
  | some j => exact ⟨j, rfl⟩
  | none => rw [firstIx_none e i] at h; cases h

/-- An index is the first when its entry satisfies `p` and no lower one does. -/
theorem firstIx_eq_some_iff {v : Vector α n} {p : α → Bool} {i : Fin n} :
    firstIx v p = some i ↔ p (v.get i) = true ∧ ∀ j < i, p (v.get j) = false := by
  refine ⟨fun h => ⟨firstIx_some h, fun j hj => firstIx_first h hj⟩, fun ⟨h, hl⟩ => ?_⟩
  obtain ⟨j, hj⟩ := firstIx_isSome (v := v) (p := p) h
  rcases Nat.lt_trichotomy j.val i.val with hc | hc | hc
  · exact absurd (firstIx_some hj) (by simp [hl j hc])
  · rw [hj, Fin.ext hc]
  · exact absurd (firstIx_first hj hc) (by simp [h])

/-- What a search for the first index can answer, for entries that satisfy `p` exactly at the indices of `P`. -/
theorem firstIx_spec {v : Vector α n} {p : α → Bool} (P : Fin n → Prop) (h : ∀ i, p (v.get i) = true ↔ P i) :
    (∀ i, firstIx v p = some i ↔ P i ∧ ∀ j < i, ¬P j) ∧ (firstIx v p = none ↔ ∀ i, ¬P i) := by
  have h' : ∀ i, p (v.get i) = false ↔ ¬P i := fun i => by rw [← h i, Bool.not_eq_true]
  refine ⟨fun i => ?_, fun e i => (h' i).1 (firstIx_none e i), fun e => ?_⟩
  · rw [firstIx_eq_some_iff, h i]
    exact and_congr_right fun _ => forall₂_congr fun j _ => h' j
  · cases x : firstIx v p with
    | none => rfl
    | some i => exact absurd ((h i).1 (firstIx_some x)) (e i)

/-! ## Lists -/

/-- The element taken is the first that satisfies `p`, and what is left is the rest in its order. -/
theorem takeFirst_some {p : α → Bool} {l : List α} {x : α} {r : List α} (h : takeFirst p l = some (x, r)) :
    ∃ a b, l = a ++ x :: b ∧ r = a ++ b ∧ p x = true ∧ ∀ y ∈ a, p y = false := by
  induction l generalizing r with
  | nil => cases h
  | cons y ys ih =>
    unfold takeFirst at h
    split at h
    · next hy => cases h; exact ⟨[], ys, rfl, rfl, hy, by simp⟩
    · next hy =>
      cases e : takeFirst p ys with
      | none => rw [e] at h; cases h
      | some q =>
        rw [e] at h
        obtain ⟨a, b, h1, h2, h3, h4⟩ := ih (r := q.2) (by rw [e]; cases h; rfl)
        cases h
        refine ⟨y :: a, b, by simp [h1], by simp [h2], h3, ?_⟩
        intro z hz
        rcases List.mem_cons.mp hz with rfl | hz
        · simpa using hy
        · exact h4 z hz

/-- Nothing is taken exactly when nothing satisfies `p`. -/
theorem takeFirst_none {p : α → Bool} {l : List α} (h : takeFirst p l = none) : ∀ y ∈ l, p y = false := by
  induction l with
  | nil => simp
  | cons y ys ih =>
    unfold takeFirst at h
    split at h
    · cases h
    · next hy =>
      intro z hz
      cases e : takeFirst p ys with
      | some q => rw [e] at h; cases h
      | none =>
        rcases List.mem_cons.mp hz with rfl | hz
        · simpa using hy
        · exact ih e z hz

/-! ## Ports and codes -/

theorem portIx_injective {p q : PortId} (h : portIx p = portIx q) : p = q := by
  cases p <;> cases q <;> first | rfl | exact absurd h (by decide)

theorem portOfCode_portIx (p : PortId) : portOfCode (portIx p).val = some p := by cases p <;> rfl

theorem classOfCode_classIx (c : TClass) : classOfCode (classIx c).val = some c := by cases c <;> rfl

@[simp] theorem length_le (n v : Nat) : (le n v).length = n := by
  induction n generalizing v with
  | zero => rfl
  | succ n ih => simp [le, ih]

/-- One byte more of a number read most significant byte first. -/
theorem beAt_succ (l : List Byte) (i n : Nat) : beAt l i (n + 1) = beAt l i n * 256 + (byteAt l (i + n)).toNat := by
  simp [beAt, List.range_succ]

/-- A number of `n` bytes is below 256 to the power n. -/
theorem beAt_lt (l : List Byte) (i n : Nat) : beAt l i n < 256 ^ n := by
  induction n with
  | zero => simp [beAt]
  | succ n ih =>
    have := (byteAt l (i + n)).isLt
    rw [beAt_succ, Nat.pow_succ]
    omega

@[simp] theorem length_pad (n : Nat) (l : List Byte) : (pad n l).length = n := by simp [pad]

theorem finOf_val (i : Fin n) : finOf n i.val = some i := by simp [finOf]

theorem finOf_some {n k : Nat} {i : Fin n} (h : finOf n k = some i) : i.val = k := by
  unfold finOf at h
  split at h
  · cases h; rfl
  · cases h

end Sys2Proof.Machine
end

