-- ==== Sys2Proof/Laws/State.lean ====
section
/-!
SUPPORT. What each basic update of the state leaves and what it writes: one lemma per field per update, each true by
unfolding, so that a proof need not unfold an update.
-/

namespace Sys2Proof.Machine

open Sys2Proof

/-! ## `State.setPort` -/

@[simp] theorem State.setPort_pending (s : State) (p : PortId) (x : Port) : (s.setPort p x).pending = s.pending := rfl
@[simp] theorem State.setPort_exu (s : State) (p : PortId) (x : Port) : (s.setPort p x).exu = s.exu := rfl
@[simp] theorem State.setPort_flc (s : State) (p : PortId) (x : Port) : (s.setPort p x).flc = s.flc := rfl
@[simp] theorem State.setPort_stt (s : State) (p : PortId) (x : Port) : (s.setPort p x).stt = s.stt := rfl
@[simp] theorem State.setPort_sck (s : State) (p : PortId) (x : Port) : (s.setPort p x).sck = s.sck := rfl
@[simp] theorem State.setPort_pfe (s : State) (p : PortId) (x : Port) : (s.setPort p x).pfe = s.pfe := rfl
@[simp] theorem State.setPort_mlc (s : State) (p : PortId) (x : Port) : (s.setPort p x).mlc = s.mlc := rfl
@[simp] theorem State.setPort_hoc (s : State) (p : PortId) (x : Port) : (s.setPort p x).hoc = s.hoc := rfl
@[simp] theorem State.setPort_ups (s : State) (p : PortId) (x : Port) : (s.setPort p x).ups = s.ups := rfl
@[simp] theorem State.setPort_fls (s : State) (p : PortId) (x : Port) : (s.setPort p x).fls = s.fls := rfl
@[simp] theorem State.setPort_frp_ports (s : State) (p : PortId) (x : Port) :
    (s.setPort p x).frp.ports = put s.frp.ports (portIx p) x := rfl
@[simp] theorem State.setPort_frp_free (s : State) (p : PortId) (x : Port) : (s.setPort p x).frp.free = s.frp.free :=
    rfl
@[simp] theorem State.setPort_frp_addresses (s : State) (p : PortId) (x : Port) : (s.setPort p x).frp.addresses = s.frp.addresses :=
    rfl
@[simp] theorem State.setPort_frp_agingDue (s : State) (p : PortId) (x : Port) : (s.setPort p x).frp.agingDue = s.frp.agingDue :=
    rfl

/-! ## `State.takeBuffer` -/

@[simp] theorem State.takeBuffer_pending (s : State) : s.takeBuffer.pending = s.pending := rfl
@[simp] theorem State.takeBuffer_exu (s : State) : s.takeBuffer.exu = s.exu := rfl
@[simp] theorem State.takeBuffer_flc (s : State) : s.takeBuffer.flc = s.flc := rfl
@[simp] theorem State.takeBuffer_stt (s : State) : s.takeBuffer.stt = s.stt := rfl
@[simp] theorem State.takeBuffer_sck (s : State) : s.takeBuffer.sck = s.sck := rfl
@[simp] theorem State.takeBuffer_pfe (s : State) : s.takeBuffer.pfe = s.pfe := rfl
@[simp] theorem State.takeBuffer_mlc (s : State) : s.takeBuffer.mlc = s.mlc := rfl
@[simp] theorem State.takeBuffer_hoc (s : State) : s.takeBuffer.hoc = s.hoc := rfl
@[simp] theorem State.takeBuffer_ups (s : State) : s.takeBuffer.ups = s.ups := rfl
@[simp] theorem State.takeBuffer_fls (s : State) : s.takeBuffer.fls = s.fls := rfl
@[simp] theorem State.takeBuffer_frp_ports (s : State) : s.takeBuffer.frp.ports = s.frp.ports := rfl
@[simp] theorem State.takeBuffer_frp_free (s : State) :
    s.takeBuffer.frp.free = s.frp.free - 1 := rfl
@[simp] theorem State.takeBuffer_frp_addresses (s : State) : s.takeBuffer.frp.addresses = s.frp.addresses := rfl
@[simp] theorem State.takeBuffer_frp_agingDue (s : State) : s.takeBuffer.frp.agingDue = s.frp.agingDue := rfl

/-! ## `State.returnBuffers` -/

@[simp] theorem State.returnBuffers_pending (s : State) (n : Nat) : (s.returnBuffers n).pending = s.pending := rfl
@[simp] theorem State.returnBuffers_exu (s : State) (n : Nat) : (s.returnBuffers n).exu = s.exu := rfl
@[simp] theorem State.returnBuffers_flc (s : State) (n : Nat) : (s.returnBuffers n).flc = s.flc := rfl
@[simp] theorem State.returnBuffers_stt (s : State) (n : Nat) : (s.returnBuffers n).stt = s.stt := rfl
@[simp] theorem State.returnBuffers_sck (s : State) (n : Nat) : (s.returnBuffers n).sck = s.sck := rfl
@[simp] theorem State.returnBuffers_pfe (s : State) (n : Nat) : (s.returnBuffers n).pfe = s.pfe := rfl
@[simp] theorem State.returnBuffers_mlc (s : State) (n : Nat) : (s.returnBuffers n).mlc = s.mlc := rfl
@[simp] theorem State.returnBuffers_hoc (s : State) (n : Nat) : (s.returnBuffers n).hoc = s.hoc := rfl
@[simp] theorem State.returnBuffers_ups (s : State) (n : Nat) : (s.returnBuffers n).ups = s.ups := rfl
@[simp] theorem State.returnBuffers_fls (s : State) (n : Nat) : (s.returnBuffers n).fls = s.fls := rfl
@[simp] theorem State.returnBuffers_frp_ports (s : State) (n : Nat) : (s.returnBuffers n).frp.ports = s.frp.ports :=
    rfl
@[simp] theorem State.returnBuffers_frp_free (s : State) (n : Nat) :
    (s.returnBuffers n).frp.free = s.frp.free + n := rfl
@[simp] theorem State.returnBuffers_frp_addresses (s : State) (n : Nat) : (s.returnBuffers n).frp.addresses = s.frp.addresses :=
    rfl
@[simp] theorem State.returnBuffers_frp_agingDue (s : State) (n : Nat) : (s.returnBuffers n).frp.agingDue = s.frp.agingDue :=
    rfl

/-! ## `State.count` -/

@[simp] theorem State.count_pending (s : State) (p : PortId) (c : TClass) (k : Counter) : (s.count p c k).pending = s.pending :=
    rfl
@[simp] theorem State.count_exu (s : State) (p : PortId) (c : TClass) (k : Counter) : (s.count p c k).exu = s.exu :=
    rfl
@[simp] theorem State.count_flc (s : State) (p : PortId) (c : TClass) (k : Counter) : (s.count p c k).flc = s.flc :=
    rfl
@[simp] theorem State.count_stt (s : State) (p : PortId) (c : TClass) (k : Counter) : (s.count p c k).stt = s.stt :=
    rfl
@[simp] theorem State.count_sck (s : State) (p : PortId) (c : TClass) (k : Counter) : (s.count p c k).sck = s.sck :=
    rfl
@[simp] theorem State.count_pfe (s : State) (p : PortId) (c : TClass) (k : Counter) : (s.count p c k).pfe = s.pfe :=
    rfl
@[simp] theorem State.count_mlc (s : State) (p : PortId) (c : TClass) (k : Counter) : (s.count p c k).mlc = s.mlc :=
    rfl
@[simp] theorem State.count_hoc (s : State) (p : PortId) (c : TClass) (k : Counter) : (s.count p c k).hoc = s.hoc :=
    rfl
@[simp] theorem State.count_ups (s : State) (p : PortId) (c : TClass) (k : Counter) : (s.count p c k).ups = s.ups :=
    rfl
@[simp] theorem State.count_fls (s : State) (p : PortId) (c : TClass) (k : Counter) : (s.count p c k).fls = s.fls :=
    rfl
@[simp] theorem State.count_frp_free (s : State) (p : PortId) (c : TClass) (k : Counter) : (s.count p c k).frp.free = s.frp.free :=
    rfl
@[simp] theorem State.count_frp_addresses (s : State) (p : PortId) (c : TClass) (k : Counter) : (s.count p c k).frp.addresses = s.frp.addresses :=
    rfl
@[simp] theorem State.count_frp_agingDue (s : State) (p : PortId) (c : TClass) (k : Counter) : (s.count p c k).frp.agingDue = s.frp.agingDue :=
    rfl

/-! ## `State.setIngress` -/

@[simp] theorem State.setIngress_pending (s : State) (p : PortId) (x : Option Ingress) : (s.setIngress p x).pending = s.pending :=
    rfl
@[simp] theorem State.setIngress_exu (s : State) (p : PortId) (x : Option Ingress) : (s.setIngress p x).exu = s.exu :=
    rfl
@[simp] theorem State.setIngress_flc (s : State) (p : PortId) (x : Option Ingress) : (s.setIngress p x).flc = s.flc :=
    rfl
@[simp] theorem State.setIngress_stt (s : State) (p : PortId) (x : Option Ingress) : (s.setIngress p x).stt = s.stt :=
    rfl
@[simp] theorem State.setIngress_sck (s : State) (p : PortId) (x : Option Ingress) : (s.setIngress p x).sck = s.sck :=
    rfl
@[simp] theorem State.setIngress_pfe (s : State) (p : PortId) (x : Option Ingress) : (s.setIngress p x).pfe = s.pfe :=
    rfl
@[simp] theorem State.setIngress_mlc (s : State) (p : PortId) (x : Option Ingress) : (s.setIngress p x).mlc = s.mlc :=
    rfl
@[simp] theorem State.setIngress_hoc (s : State) (p : PortId) (x : Option Ingress) : (s.setIngress p x).hoc = s.hoc :=
    rfl
@[simp] theorem State.setIngress_ups (s : State) (p : PortId) (x : Option Ingress) : (s.setIngress p x).ups = s.ups :=
    rfl
@[simp] theorem State.setIngress_fls (s : State) (p : PortId) (x : Option Ingress) : (s.setIngress p x).fls = s.fls :=
    rfl
@[simp] theorem State.setIngress_frp_free (s : State) (p : PortId) (x : Option Ingress) : (s.setIngress p x).frp.free = s.frp.free :=
    rfl
@[simp] theorem State.setIngress_frp_addresses (s : State) (p : PortId) (x : Option Ingress) : (s.setIngress p x).frp.addresses = s.frp.addresses :=
    rfl
@[simp] theorem State.setIngress_frp_agingDue (s : State) (p : PortId) (x : Option Ingress) : (s.setIngress p x).frp.agingDue = s.frp.agingDue :=
    rfl

/-! ## `State.purgePort` -/

@[simp] theorem State.purgePort_pending (s : State) (p : PortId) (d : Copy → Bool) : (s.purgePort p d).pending = s.pending :=
    rfl
@[simp] theorem State.purgePort_exu (s : State) (p : PortId) (d : Copy → Bool) : (s.purgePort p d).exu = s.exu := rfl
@[simp] theorem State.purgePort_flc (s : State) (p : PortId) (d : Copy → Bool) : (s.purgePort p d).flc = s.flc := rfl
@[simp] theorem State.purgePort_stt (s : State) (p : PortId) (d : Copy → Bool) : (s.purgePort p d).stt = s.stt := rfl
@[simp] theorem State.purgePort_sck (s : State) (p : PortId) (d : Copy → Bool) : (s.purgePort p d).sck = s.sck := rfl
@[simp] theorem State.purgePort_pfe (s : State) (p : PortId) (d : Copy → Bool) : (s.purgePort p d).pfe = s.pfe := rfl
@[simp] theorem State.purgePort_mlc (s : State) (p : PortId) (d : Copy → Bool) : (s.purgePort p d).mlc = s.mlc := rfl
@[simp] theorem State.purgePort_hoc (s : State) (p : PortId) (d : Copy → Bool) : (s.purgePort p d).hoc = s.hoc := rfl
@[simp] theorem State.purgePort_ups (s : State) (p : PortId) (d : Copy → Bool) : (s.purgePort p d).ups = s.ups := rfl
@[simp] theorem State.purgePort_fls (s : State) (p : PortId) (d : Copy → Bool) : (s.purgePort p d).fls = s.fls := rfl
@[simp] theorem State.purgePort_frp_addresses (s : State) (p : PortId) (d : Copy → Bool) : (s.purgePort p d).frp.addresses = s.frp.addresses :=
    rfl
@[simp] theorem State.purgePort_frp_agingDue (s : State) (p : PortId) (d : Copy → Bool) : (s.purgePort p d).frp.agingDue = s.frp.agingDue :=
    rfl

/-! ## `State.dropAddresses` -/

@[simp] theorem State.dropAddresses_pending (s : State) (d : AddrEntry → Bool) : (s.dropAddresses d).pending = s.pending :=
    rfl
@[simp] theorem State.dropAddresses_exu (s : State) (d : AddrEntry → Bool) : (s.dropAddresses d).exu = s.exu := rfl
@[simp] theorem State.dropAddresses_flc (s : State) (d : AddrEntry → Bool) : (s.dropAddresses d).flc = s.flc := rfl
@[simp] theorem State.dropAddresses_stt (s : State) (d : AddrEntry → Bool) : (s.dropAddresses d).stt = s.stt := rfl
@[simp] theorem State.dropAddresses_sck (s : State) (d : AddrEntry → Bool) : (s.dropAddresses d).sck = s.sck := rfl
@[simp] theorem State.dropAddresses_pfe (s : State) (d : AddrEntry → Bool) : (s.dropAddresses d).pfe = s.pfe := rfl
@[simp] theorem State.dropAddresses_mlc (s : State) (d : AddrEntry → Bool) : (s.dropAddresses d).mlc = s.mlc := rfl
@[simp] theorem State.dropAddresses_hoc (s : State) (d : AddrEntry → Bool) : (s.dropAddresses d).hoc = s.hoc := rfl
@[simp] theorem State.dropAddresses_ups (s : State) (d : AddrEntry → Bool) : (s.dropAddresses d).ups = s.ups := rfl
@[simp] theorem State.dropAddresses_fls (s : State) (d : AddrEntry → Bool) : (s.dropAddresses d).fls = s.fls := rfl
@[simp] theorem State.dropAddresses_frp_ports (s : State) (d : AddrEntry → Bool) : (s.dropAddresses d).frp.ports = s.frp.ports :=
    rfl
@[simp] theorem State.dropAddresses_frp_free (s : State) (d : AddrEntry → Bool) : (s.dropAddresses d).frp.free = s.frp.free :=
    rfl
@[simp] theorem State.dropAddresses_frp_agingDue (s : State) (d : AddrEntry → Bool) : (s.dropAddresses d).frp.agingDue = s.frp.agingDue :=
    rfl

/-! ## `State.setSta` -/

@[simp] theorem State.setSta_pending (s : State) (i : StaIx) (r : Station) : (s.setSta i r).pending = s.pending := rfl
@[simp] theorem State.setSta_exu (s : State) (i : StaIx) (r : Station) : (s.setSta i r).exu = s.exu := rfl
@[simp] theorem State.setSta_frp (s : State) (i : StaIx) (r : Station) : (s.setSta i r).frp = s.frp := rfl
@[simp] theorem State.setSta_flc (s : State) (i : StaIx) (r : Station) : (s.setSta i r).flc = s.flc := rfl
@[simp] theorem State.setSta_sck (s : State) (i : StaIx) (r : Station) : (s.setSta i r).sck = s.sck := rfl
@[simp] theorem State.setSta_pfe (s : State) (i : StaIx) (r : Station) : (s.setSta i r).pfe = s.pfe := rfl
@[simp] theorem State.setSta_mlc (s : State) (i : StaIx) (r : Station) : (s.setSta i r).mlc = s.mlc := rfl
@[simp] theorem State.setSta_hoc (s : State) (i : StaIx) (r : Station) : (s.setSta i r).hoc = s.hoc := rfl
@[simp] theorem State.setSta_ups (s : State) (i : StaIx) (r : Station) : (s.setSta i r).ups = s.ups := rfl
@[simp] theorem State.setSta_fls (s : State) (i : StaIx) (r : Station) : (s.setSta i r).fls = s.fls := rfl
@[simp] theorem State.setSta_stt_recs (s : State) (i : StaIx) (r : Station) :
    (s.setSta i r).stt.recs = put s.stt.recs i r := rfl
@[simp] theorem State.setSta_stt_minutes (s : State) (i : StaIx) (r : Station) : (s.setSta i r).stt.minutes = s.stt.minutes :=
    rfl
@[simp] theorem State.setSta_stt_notices (s : State) (i : StaIx) (r : Station) : (s.setSta i r).stt.notices = s.stt.notices :=
    rfl

/-! ## `State.notice` -/

@[simp] theorem State.notice_pending (s : State) (n : Notice) : (s.notice n).pending = s.pending := rfl
@[simp] theorem State.notice_exu (s : State) (n : Notice) : (s.notice n).exu = s.exu := rfl
@[simp] theorem State.notice_frp (s : State) (n : Notice) : (s.notice n).frp = s.frp := rfl
@[simp] theorem State.notice_flc (s : State) (n : Notice) : (s.notice n).flc = s.flc := rfl
@[simp] theorem State.notice_sck (s : State) (n : Notice) : (s.notice n).sck = s.sck := rfl
@[simp] theorem State.notice_pfe (s : State) (n : Notice) : (s.notice n).pfe = s.pfe := rfl
@[simp] theorem State.notice_mlc (s : State) (n : Notice) : (s.notice n).mlc = s.mlc := rfl
@[simp] theorem State.notice_hoc (s : State) (n : Notice) : (s.notice n).hoc = s.hoc := rfl
@[simp] theorem State.notice_ups (s : State) (n : Notice) : (s.notice n).ups = s.ups := rfl
@[simp] theorem State.notice_fls (s : State) (n : Notice) : (s.notice n).fls = s.fls := rfl
@[simp] theorem State.notice_stt_recs (s : State) (n : Notice) : (s.notice n).stt.recs = s.stt.recs := rfl
@[simp] theorem State.notice_stt_minutes (s : State) (n : Notice) : (s.notice n).stt.minutes = s.stt.minutes := rfl
@[simp] theorem State.notice_stt_notices (s : State) (n : Notice) :
    (s.notice n).stt.notices = s.stt.notices ++ [n] := rfl

/-! ## `State.setProfile` -/

@[simp] theorem State.setProfile_pending (s : State) (p : ProfIx) (x : Profile) : (s.setProfile p x).pending = s.pending :=
    rfl
@[simp] theorem State.setProfile_exu (s : State) (p : ProfIx) (x : Profile) : (s.setProfile p x).exu = s.exu := rfl
@[simp] theorem State.setProfile_frp (s : State) (p : ProfIx) (x : Profile) : (s.setProfile p x).frp = s.frp := rfl
@[simp] theorem State.setProfile_flc (s : State) (p : ProfIx) (x : Profile) : (s.setProfile p x).flc = s.flc := rfl
@[simp] theorem State.setProfile_stt (s : State) (p : ProfIx) (x : Profile) : (s.setProfile p x).stt = s.stt := rfl
@[simp] theorem State.setProfile_sck (s : State) (p : ProfIx) (x : Profile) : (s.setProfile p x).sck = s.sck := rfl
@[simp] theorem State.setProfile_mlc (s : State) (p : ProfIx) (x : Profile) : (s.setProfile p x).mlc = s.mlc := rfl
@[simp] theorem State.setProfile_hoc (s : State) (p : ProfIx) (x : Profile) : (s.setProfile p x).hoc = s.hoc := rfl
@[simp] theorem State.setProfile_ups (s : State) (p : ProfIx) (x : Profile) : (s.setProfile p x).ups = s.ups := rfl
@[simp] theorem State.setProfile_fls (s : State) (p : ProfIx) (x : Profile) : (s.setProfile p x).fls = s.fls := rfl
@[simp] theorem State.setProfile_pfe_profiles (s : State) (p : ProfIx) (x : Profile) :
    (s.setProfile p x).pfe.profiles = put s.pfe.profiles p x := rfl
@[simp] theorem State.setProfile_pfe_triggers (s : State) (p : ProfIx) (x : Profile) : (s.setProfile p x).pfe.triggers = s.pfe.triggers :=
    rfl

@[simp] theorem State.setProfile_pfe_taken (s : State) (p : ProfIx) (x : Profile) : (s.setProfile p x).pfe.taken = s.pfe.taken :=
    rfl

/-! ## `State.trigger` -/

@[simp] theorem State.trigger_pending (s : State) (t : Trigger) : (s.trigger t).pending = s.pending := rfl
@[simp] theorem State.trigger_exu (s : State) (t : Trigger) : (s.trigger t).exu = s.exu := rfl
@[simp] theorem State.trigger_frp (s : State) (t : Trigger) : (s.trigger t).frp = s.frp := rfl
@[simp] theorem State.trigger_flc (s : State) (t : Trigger) : (s.trigger t).flc = s.flc := rfl
@[simp] theorem State.trigger_stt (s : State) (t : Trigger) : (s.trigger t).stt = s.stt := rfl
@[simp] theorem State.trigger_sck (s : State) (t : Trigger) : (s.trigger t).sck = s.sck := rfl
@[simp] theorem State.trigger_mlc (s : State) (t : Trigger) : (s.trigger t).mlc = s.mlc := rfl
@[simp] theorem State.trigger_hoc (s : State) (t : Trigger) : (s.trigger t).hoc = s.hoc := rfl
@[simp] theorem State.trigger_ups (s : State) (t : Trigger) : (s.trigger t).ups = s.ups := rfl
@[simp] theorem State.trigger_fls (s : State) (t : Trigger) : (s.trigger t).fls = s.fls := rfl
@[simp] theorem State.trigger_pfe_profiles (s : State) (t : Trigger) : (s.trigger t).pfe.profiles = s.pfe.profiles :=
    rfl
@[simp] theorem State.trigger_pfe_triggers (s : State) (t : Trigger) :
    (s.trigger t).pfe.triggers = s.pfe.triggers ++ [t] := rfl

@[simp] theorem State.trigger_pfe_taken (s : State) (t : Trigger) : (s.trigger t).pfe.taken = s.pfe.taken := rfl

/-! ## `State.triggerFor` -/

@[simp] theorem State.triggerFor_pending (s : State) (p : ProfIx) (c : Cause) : (s.triggerFor p c).pending = s.pending :=
    rfl
@[simp] theorem State.triggerFor_exu (s : State) (p : ProfIx) (c : Cause) : (s.triggerFor p c).exu = s.exu := rfl
@[simp] theorem State.triggerFor_frp (s : State) (p : ProfIx) (c : Cause) : (s.triggerFor p c).frp = s.frp := rfl
@[simp] theorem State.triggerFor_flc (s : State) (p : ProfIx) (c : Cause) : (s.triggerFor p c).flc = s.flc := rfl
@[simp] theorem State.triggerFor_stt (s : State) (p : ProfIx) (c : Cause) : (s.triggerFor p c).stt = s.stt := rfl
@[simp] theorem State.triggerFor_sck (s : State) (p : ProfIx) (c : Cause) : (s.triggerFor p c).sck = s.sck := rfl
@[simp] theorem State.triggerFor_mlc (s : State) (p : ProfIx) (c : Cause) : (s.triggerFor p c).mlc = s.mlc := rfl
@[simp] theorem State.triggerFor_hoc (s : State) (p : ProfIx) (c : Cause) : (s.triggerFor p c).hoc = s.hoc := rfl
@[simp] theorem State.triggerFor_ups (s : State) (p : ProfIx) (c : Cause) : (s.triggerFor p c).ups = s.ups := rfl
@[simp] theorem State.triggerFor_fls (s : State) (p : ProfIx) (c : Cause) : (s.triggerFor p c).fls = s.fls := rfl
@[simp] theorem State.triggerFor_pfe_profiles (s : State) (p : ProfIx) (c : Cause) : (s.triggerFor p c).pfe.profiles = s.pfe.profiles :=
    rfl
@[simp] theorem State.triggerFor_pfe_triggers (s : State) (p : ProfIx) (c : Cause) :
    (s.triggerFor p c).pfe.triggers = s.pfe.triggers ++ [⟨p, c, none, none⟩] := rfl

@[simp] theorem State.triggerFor_pfe_taken (s : State) (p : ProfIx) (c : Cause) : (s.triggerFor p c).pfe.taken = s.pfe.taken := rfl

/-! ## `State.triggerAll` -/

@[simp] theorem State.triggerAll_pending (s : State) (c : Cause) (d : Option ClockEvent) : (s.triggerAll c d).pending = s.pending :=
    rfl
@[simp] theorem State.triggerAll_exu (s : State) (c : Cause) (d : Option ClockEvent) : (s.triggerAll c d).exu = s.exu :=
    rfl
@[simp] theorem State.triggerAll_frp (s : State) (c : Cause) (d : Option ClockEvent) : (s.triggerAll c d).frp = s.frp :=
    rfl
@[simp] theorem State.triggerAll_flc (s : State) (c : Cause) (d : Option ClockEvent) : (s.triggerAll c d).flc = s.flc :=
    rfl
@[simp] theorem State.triggerAll_stt (s : State) (c : Cause) (d : Option ClockEvent) : (s.triggerAll c d).stt = s.stt :=
    rfl
@[simp] theorem State.triggerAll_sck (s : State) (c : Cause) (d : Option ClockEvent) : (s.triggerAll c d).sck = s.sck :=
    rfl
@[simp] theorem State.triggerAll_mlc (s : State) (c : Cause) (d : Option ClockEvent) : (s.triggerAll c d).mlc = s.mlc :=
    rfl
@[simp] theorem State.triggerAll_hoc (s : State) (c : Cause) (d : Option ClockEvent) : (s.triggerAll c d).hoc = s.hoc :=
    rfl
@[simp] theorem State.triggerAll_ups (s : State) (c : Cause) (d : Option ClockEvent) : (s.triggerAll c d).ups = s.ups :=
    rfl
@[simp] theorem State.triggerAll_fls (s : State) (c : Cause) (d : Option ClockEvent) : (s.triggerAll c d).fls = s.fls :=
    rfl
@[simp] theorem State.triggerAll_pfe_profiles (s : State) (c : Cause) (d : Option ClockEvent) : (s.triggerAll c d).pfe.profiles = s.pfe.profiles :=
    rfl
@[simp] theorem State.triggerAll_pfe_taken (s : State) (c : Cause) (d : Option ClockEvent) : (s.triggerAll c d).pfe.taken = s.pfe.taken :=
    rfl

/-! ## `State.giveReport` -/

@[simp] theorem State.giveReport_pending (s : State) (k : ReportKind) (n : Nat) (b : List Byte) : (s.giveReport k n b).pending = s.pending :=
    rfl
@[simp] theorem State.giveReport_frp (s : State) (k : ReportKind) (n : Nat) (b : List Byte) : (s.giveReport k n b).frp = s.frp :=
    rfl
@[simp] theorem State.giveReport_flc (s : State) (k : ReportKind) (n : Nat) (b : List Byte) : (s.giveReport k n b).flc = s.flc :=
    rfl
@[simp] theorem State.giveReport_stt (s : State) (k : ReportKind) (n : Nat) (b : List Byte) : (s.giveReport k n b).stt = s.stt :=
    rfl
@[simp] theorem State.giveReport_sck (s : State) (k : ReportKind) (n : Nat) (b : List Byte) : (s.giveReport k n b).sck = s.sck :=
    rfl
@[simp] theorem State.giveReport_pfe (s : State) (k : ReportKind) (n : Nat) (b : List Byte) : (s.giveReport k n b).pfe = s.pfe :=
    rfl
@[simp] theorem State.giveReport_mlc (s : State) (k : ReportKind) (n : Nat) (b : List Byte) : (s.giveReport k n b).mlc = s.mlc :=
    rfl
@[simp] theorem State.giveReport_hoc (s : State) (k : ReportKind) (n : Nat) (b : List Byte) : (s.giveReport k n b).hoc = s.hoc :=
    rfl
@[simp] theorem State.giveReport_ups (s : State) (k : ReportKind) (n : Nat) (b : List Byte) : (s.giveReport k n b).ups = s.ups :=
    rfl
@[simp] theorem State.giveReport_fls (s : State) (k : ReportKind) (n : Nat) (b : List Byte) : (s.giveReport k n b).fls = s.fls :=
    rfl
@[simp] theorem State.giveReport_exu_areaLow (s : State) (k : ReportKind) (n : Nat) (b : List Byte) : (s.giveReport k n b).exu.areaLow = s.exu.areaLow :=
    rfl
@[simp] theorem State.giveReport_exu_areaHigh (s : State) (k : ReportKind) (n : Nat) (b : List Byte) : (s.giveReport k n b).exu.areaHigh = s.exu.areaHigh :=
    rfl
@[simp] theorem State.giveReport_exu_areaSize (s : State) (k : ReportKind) (n : Nat) (b : List Byte) : (s.giveReport k n b).exu.areaSize = s.exu.areaSize :=
    rfl
@[simp] theorem State.giveReport_exu_events (s : State) (k : ReportKind) (n : Nat) (b : List Byte) : (s.giveReport k n b).exu.events = s.exu.events :=
    rfl
@[simp] theorem State.giveReport_exu_eventMask (s : State) (k : ReportKind) (n : Nat) (b : List Byte) : (s.giveReport k n b).exu.eventMask = s.exu.eventMask :=
    rfl
@[simp] theorem State.giveReport_exu_engine (s : State) (k : ReportKind) (n : Nat) (b : List Byte) : (s.giveReport k n b).exu.engine = s.exu.engine :=
    rfl
@[simp] theorem State.giveReport_exu_fault (s : State) (k : ReportKind) (n : Nat) (b : List Byte) : (s.giveReport k n b).exu.fault = s.exu.fault :=
    rfl
@[simp] theorem State.giveReport_exu_area (s : State) (k : ReportKind) (n : Nat) (b : List Byte) : (s.giveReport k n b).exu.area = s.exu.area :=
    rfl
@[simp] theorem State.giveReport_exu_runWait (s : State) (k : ReportKind) (n : Nat) (b : List Byte) : (s.giveReport k n b).exu.runWait = s.exu.runWait :=
    rfl
@[simp] theorem State.giveReport_exu_resetUntil (s : State) (k : ReportKind) (n : Nat) (b : List Byte) : (s.giveReport k n b).exu.resetUntil = s.exu.resetUntil :=
    rfl
@[simp] theorem State.giveReport_exu_cursor (s : State) (k : ReportKind) (n : Nat) (b : List Byte) : (s.giveReport k n b).exu.cursor = s.exu.cursor :=
    rfl
@[simp] theorem State.giveReport_exu_reportPos (s : State) (k : ReportKind) (n : Nat) (b : List Byte) : (s.giveReport k n b).exu.reportPos = s.exu.reportPos :=
    rfl
@[simp] theorem State.giveReport_exu_look (s : State) (k : ReportKind) (n : Nat) (b : List Byte) : (s.giveReport k n b).exu.look = s.exu.look :=
    rfl
@[simp] theorem State.giveReport_exu_lookPending (s : State) (k : ReportKind) (n : Nat) (b : List Byte) : (s.giveReport k n b).exu.lookPending = s.exu.lookPending :=
    rfl
@[simp] theorem State.giveReport_exu_scanPeriod (s : State) (k : ReportKind) (n : Nat) (b : List Byte) : (s.giveReport k n b).exu.scanPeriod = s.exu.scanPeriod :=
    rfl
@[simp] theorem State.giveReport_exu_scanAt (s : State) (k : ReportKind) (n : Nat) (b : List Byte) : (s.giveReport k n b).exu.scanAt = s.exu.scanAt :=
    rfl
@[simp] theorem State.giveReport_exu_inFlight (s : State) (k : ReportKind) (n : Nat) (b : List Byte) : (s.giveReport k n b).exu.inFlight = s.exu.inFlight :=
    rfl
@[simp] theorem State.giveReport_exu_nextOrder (s : State) (k : ReportKind) (n : Nat) (b : List Byte) : (s.giveReport k n b).exu.nextOrder = s.exu.nextOrder :=
    rfl
@[simp] theorem State.giveReport_exu_answers (s : State) (k : ReportKind) (n : Nat) (b : List Byte) : (s.giveReport k n b).exu.answers = s.exu.answers :=
    rfl
@[simp] theorem State.giveReport_exu_lastTaken (s : State) (k : ReportKind) (n : Nat) (b : List Byte) : (s.giveReport k n b).exu.lastTaken = s.exu.lastTaken :=
    rfl
@[simp] theorem State.giveReport_exu_arrivals (s : State) (k : ReportKind) (n : Nat) (b : List Byte) :
    (s.giveReport k n b).exu.arrivals = s.exu.arrivals ++ [⟨k, n, s.sck.ms, b⟩] := rfl
@[simp] theorem State.giveReport_exu_hold (s : State) (k : ReportKind) (n : Nat) (b : List Byte) : (s.giveReport k n b).exu.hold = s.exu.hold :=
    rfl
@[simp] theorem State.giveReport_exu_blocked (s : State) (k : ReportKind) (n : Nat) (b : List Byte) : (s.giveReport k n b).exu.blocked = s.exu.blocked :=
    rfl
@[simp] theorem State.giveReport_exu_place (s : State) (k : ReportKind) (n : Nat) (b : List Byte) : (s.giveReport k n b).exu.place = s.exu.place :=
    rfl
@[simp] theorem State.giveReport_exu_bus (s : State) (k : ReportKind) (n : Nat) (b : List Byte) : (s.giveReport k n b).exu.bus = s.exu.bus :=
    rfl
@[simp] theorem State.giveReport_exu_busWait (s : State) (k : ReportKind) (n : Nat) (b : List Byte) : (s.giveReport k n b).exu.busWait = s.exu.busWait :=
    rfl
@[simp] theorem State.giveReport_exu_readPos (s : State) (k : ReportKind) (n : Nat) (b : List Byte) : (s.giveReport k n b).exu.readPos = s.exu.readPos :=
    rfl
@[simp] theorem State.giveReport_exu_tableWork (s : State) (k : ReportKind) (n : Nat) (b : List Byte) : (s.giveReport k n b).exu.tableWork = s.exu.tableWork :=
    rfl
@[simp] theorem State.giveReport_exu_msi (s : State) (k : ReportKind) (n : Nat) (b : List Byte) : (s.giveReport k n b).exu.msi = s.exu.msi :=
    rfl

/-! ## `State.setEvent` -/

@[simp] theorem State.setEvent_pending (s : State) (e : Event) : (s.setEvent e).pending = s.pending := rfl
@[simp] theorem State.setEvent_frp (s : State) (e : Event) : (s.setEvent e).frp = s.frp := rfl
@[simp] theorem State.setEvent_flc (s : State) (e : Event) : (s.setEvent e).flc = s.flc := rfl
@[simp] theorem State.setEvent_stt (s : State) (e : Event) : (s.setEvent e).stt = s.stt := rfl
@[simp] theorem State.setEvent_sck (s : State) (e : Event) : (s.setEvent e).sck = s.sck := rfl
@[simp] theorem State.setEvent_pfe (s : State) (e : Event) : (s.setEvent e).pfe = s.pfe := rfl
@[simp] theorem State.setEvent_mlc (s : State) (e : Event) : (s.setEvent e).mlc = s.mlc := rfl
@[simp] theorem State.setEvent_hoc (s : State) (e : Event) : (s.setEvent e).hoc = s.hoc := rfl
@[simp] theorem State.setEvent_ups (s : State) (e : Event) : (s.setEvent e).ups = s.ups := rfl
@[simp] theorem State.setEvent_fls (s : State) (e : Event) : (s.setEvent e).fls = s.fls := rfl
@[simp] theorem State.setEvent_exu_areaLow (s : State) (e : Event) : (s.setEvent e).exu.areaLow = s.exu.areaLow := rfl
@[simp] theorem State.setEvent_exu_areaHigh (s : State) (e : Event) : (s.setEvent e).exu.areaHigh = s.exu.areaHigh :=
    rfl
@[simp] theorem State.setEvent_exu_areaSize (s : State) (e : Event) : (s.setEvent e).exu.areaSize = s.exu.areaSize :=
    rfl
@[simp] theorem State.setEvent_exu_eventMask (s : State) (e : Event) : (s.setEvent e).exu.eventMask = s.exu.eventMask :=
    rfl
@[simp] theorem State.setEvent_exu_engine (s : State) (e : Event) : (s.setEvent e).exu.engine = s.exu.engine := rfl
@[simp] theorem State.setEvent_exu_fault (s : State) (e : Event) : (s.setEvent e).exu.fault = s.exu.fault := rfl
@[simp] theorem State.setEvent_exu_area (s : State) (e : Event) : (s.setEvent e).exu.area = s.exu.area := rfl
@[simp] theorem State.setEvent_exu_runWait (s : State) (e : Event) : (s.setEvent e).exu.runWait = s.exu.runWait := rfl
@[simp] theorem State.setEvent_exu_resetUntil (s : State) (e : Event) : (s.setEvent e).exu.resetUntil = s.exu.resetUntil :=
    rfl
@[simp] theorem State.setEvent_exu_cursor (s : State) (e : Event) : (s.setEvent e).exu.cursor = s.exu.cursor := rfl
@[simp] theorem State.setEvent_exu_reportPos (s : State) (e : Event) : (s.setEvent e).exu.reportPos = s.exu.reportPos :=
    rfl
@[simp] theorem State.setEvent_exu_look (s : State) (e : Event) : (s.setEvent e).exu.look = s.exu.look := rfl
@[simp] theorem State.setEvent_exu_lookPending (s : State) (e : Event) : (s.setEvent e).exu.lookPending = s.exu.lookPending :=
    rfl
@[simp] theorem State.setEvent_exu_scanPeriod (s : State) (e : Event) : (s.setEvent e).exu.scanPeriod = s.exu.scanPeriod :=
    rfl
@[simp] theorem State.setEvent_exu_scanAt (s : State) (e : Event) : (s.setEvent e).exu.scanAt = s.exu.scanAt := rfl
@[simp] theorem State.setEvent_exu_inFlight (s : State) (e : Event) : (s.setEvent e).exu.inFlight = s.exu.inFlight :=
    rfl
@[simp] theorem State.setEvent_exu_nextOrder (s : State) (e : Event) : (s.setEvent e).exu.nextOrder = s.exu.nextOrder :=
    rfl
@[simp] theorem State.setEvent_exu_answers (s : State) (e : Event) : (s.setEvent e).exu.answers = s.exu.answers := rfl
@[simp] theorem State.setEvent_exu_lastTaken (s : State) (e : Event) : (s.setEvent e).exu.lastTaken = s.exu.lastTaken :=
    rfl
@[simp] theorem State.setEvent_exu_arrivals (s : State) (e : Event) : (s.setEvent e).exu.arrivals = s.exu.arrivals :=
    rfl
@[simp] theorem State.setEvent_exu_hold (s : State) (e : Event) : (s.setEvent e).exu.hold = s.exu.hold := rfl
@[simp] theorem State.setEvent_exu_blocked (s : State) (e : Event) : (s.setEvent e).exu.blocked = s.exu.blocked := rfl
@[simp] theorem State.setEvent_exu_place (s : State) (e : Event) : (s.setEvent e).exu.place = s.exu.place := rfl
@[simp] theorem State.setEvent_exu_bus (s : State) (e : Event) : (s.setEvent e).exu.bus = s.exu.bus := rfl
@[simp] theorem State.setEvent_exu_busWait (s : State) (e : Event) : (s.setEvent e).exu.busWait = s.exu.busWait := rfl
@[simp] theorem State.setEvent_exu_readPos (s : State) (e : Event) : (s.setEvent e).exu.readPos = s.exu.readPos := rfl
@[simp] theorem State.setEvent_exu_tableWork (s : State) (e : Event) : (s.setEvent e).exu.tableWork = s.exu.tableWork :=
    rfl

/-! ## `State.updOrder` -/

@[simp] theorem State.updOrder_pending (s : State) (id : Nat) (f : Order → Order) : (s.updOrder id f).pending = s.pending :=
    rfl
@[simp] theorem State.updOrder_frp (s : State) (id : Nat) (f : Order → Order) : (s.updOrder id f).frp = s.frp := rfl
@[simp] theorem State.updOrder_flc (s : State) (id : Nat) (f : Order → Order) : (s.updOrder id f).flc = s.flc := rfl
@[simp] theorem State.updOrder_stt (s : State) (id : Nat) (f : Order → Order) : (s.updOrder id f).stt = s.stt := rfl
@[simp] theorem State.updOrder_sck (s : State) (id : Nat) (f : Order → Order) : (s.updOrder id f).sck = s.sck := rfl
@[simp] theorem State.updOrder_pfe (s : State) (id : Nat) (f : Order → Order) : (s.updOrder id f).pfe = s.pfe := rfl
@[simp] theorem State.updOrder_mlc (s : State) (id : Nat) (f : Order → Order) : (s.updOrder id f).mlc = s.mlc := rfl
@[simp] theorem State.updOrder_hoc (s : State) (id : Nat) (f : Order → Order) : (s.updOrder id f).hoc = s.hoc := rfl
@[simp] theorem State.updOrder_ups (s : State) (id : Nat) (f : Order → Order) : (s.updOrder id f).ups = s.ups := rfl
@[simp] theorem State.updOrder_fls (s : State) (id : Nat) (f : Order → Order) : (s.updOrder id f).fls = s.fls := rfl
@[simp] theorem State.updOrder_exu_areaLow (s : State) (id : Nat) (f : Order → Order) : (s.updOrder id f).exu.areaLow = s.exu.areaLow :=
    rfl
@[simp] theorem State.updOrder_exu_areaHigh (s : State) (id : Nat) (f : Order → Order) : (s.updOrder id f).exu.areaHigh = s.exu.areaHigh :=
    rfl
@[simp] theorem State.updOrder_exu_areaSize (s : State) (id : Nat) (f : Order → Order) : (s.updOrder id f).exu.areaSize = s.exu.areaSize :=
    rfl
@[simp] theorem State.updOrder_exu_events (s : State) (id : Nat) (f : Order → Order) : (s.updOrder id f).exu.events = s.exu.events :=
    rfl
@[simp] theorem State.updOrder_exu_eventMask (s : State) (id : Nat) (f : Order → Order) : (s.updOrder id f).exu.eventMask = s.exu.eventMask :=
    rfl
@[simp] theorem State.updOrder_exu_engine (s : State) (id : Nat) (f : Order → Order) : (s.updOrder id f).exu.engine = s.exu.engine :=
    rfl
@[simp] theorem State.updOrder_exu_fault (s : State) (id : Nat) (f : Order → Order) : (s.updOrder id f).exu.fault = s.exu.fault :=
    rfl
@[simp] theorem State.updOrder_exu_area (s : State) (id : Nat) (f : Order → Order) : (s.updOrder id f).exu.area = s.exu.area :=
    rfl
@[simp] theorem State.updOrder_exu_runWait (s : State) (id : Nat) (f : Order → Order) : (s.updOrder id f).exu.runWait = s.exu.runWait :=
    rfl
@[simp] theorem State.updOrder_exu_resetUntil (s : State) (id : Nat) (f : Order → Order) : (s.updOrder id f).exu.resetUntil = s.exu.resetUntil :=
    rfl
@[simp] theorem State.updOrder_exu_cursor (s : State) (id : Nat) (f : Order → Order) : (s.updOrder id f).exu.cursor = s.exu.cursor :=
    rfl
@[simp] theorem State.updOrder_exu_reportPos (s : State) (id : Nat) (f : Order → Order) : (s.updOrder id f).exu.reportPos = s.exu.reportPos :=
    rfl
@[simp] theorem State.updOrder_exu_look (s : State) (id : Nat) (f : Order → Order) : (s.updOrder id f).exu.look = s.exu.look :=
    rfl
@[simp] theorem State.updOrder_exu_lookPending (s : State) (id : Nat) (f : Order → Order) : (s.updOrder id f).exu.lookPending = s.exu.lookPending :=
    rfl
@[simp] theorem State.updOrder_exu_scanPeriod (s : State) (id : Nat) (f : Order → Order) : (s.updOrder id f).exu.scanPeriod = s.exu.scanPeriod :=
    rfl
@[simp] theorem State.updOrder_exu_scanAt (s : State) (id : Nat) (f : Order → Order) : (s.updOrder id f).exu.scanAt = s.exu.scanAt :=
    rfl
@[simp] theorem State.updOrder_exu_nextOrder (s : State) (id : Nat) (f : Order → Order) : (s.updOrder id f).exu.nextOrder = s.exu.nextOrder :=
    rfl
@[simp] theorem State.updOrder_exu_answers (s : State) (id : Nat) (f : Order → Order) : (s.updOrder id f).exu.answers = s.exu.answers :=
    rfl
@[simp] theorem State.updOrder_exu_lastTaken (s : State) (id : Nat) (f : Order → Order) : (s.updOrder id f).exu.lastTaken = s.exu.lastTaken :=
    rfl
@[simp] theorem State.updOrder_exu_arrivals (s : State) (id : Nat) (f : Order → Order) : (s.updOrder id f).exu.arrivals = s.exu.arrivals :=
    rfl
@[simp] theorem State.updOrder_exu_hold (s : State) (id : Nat) (f : Order → Order) : (s.updOrder id f).exu.hold = s.exu.hold :=
    rfl
@[simp] theorem State.updOrder_exu_blocked (s : State) (id : Nat) (f : Order → Order) : (s.updOrder id f).exu.blocked = s.exu.blocked :=
    rfl
@[simp] theorem State.updOrder_exu_place (s : State) (id : Nat) (f : Order → Order) : (s.updOrder id f).exu.place = s.exu.place :=
    rfl
@[simp] theorem State.updOrder_exu_bus (s : State) (id : Nat) (f : Order → Order) : (s.updOrder id f).exu.bus = s.exu.bus :=
    rfl
@[simp] theorem State.updOrder_exu_busWait (s : State) (id : Nat) (f : Order → Order) : (s.updOrder id f).exu.busWait = s.exu.busWait :=
    rfl
@[simp] theorem State.updOrder_exu_readPos (s : State) (id : Nat) (f : Order → Order) : (s.updOrder id f).exu.readPos = s.exu.readPos :=
    rfl
@[simp] theorem State.updOrder_exu_tableWork (s : State) (id : Nat) (f : Order → Order) : (s.updOrder id f).exu.tableWork = s.exu.tableWork :=
    rfl
@[simp] theorem State.updOrder_exu_msi (s : State) (id : Nat) (f : Order → Order) : (s.updOrder id f).exu.msi = s.exu.msi :=
    rfl

/-! ## `State.mark` -/

@[simp] theorem State.mark_pending (s : State) (id : Nat) (p : Progress) : (s.mark id p).pending = s.pending := rfl
@[simp] theorem State.mark_frp (s : State) (id : Nat) (p : Progress) : (s.mark id p).frp = s.frp := rfl
@[simp] theorem State.mark_flc (s : State) (id : Nat) (p : Progress) : (s.mark id p).flc = s.flc := rfl
@[simp] theorem State.mark_stt (s : State) (id : Nat) (p : Progress) : (s.mark id p).stt = s.stt := rfl
@[simp] theorem State.mark_sck (s : State) (id : Nat) (p : Progress) : (s.mark id p).sck = s.sck := rfl
@[simp] theorem State.mark_pfe (s : State) (id : Nat) (p : Progress) : (s.mark id p).pfe = s.pfe := rfl
@[simp] theorem State.mark_mlc (s : State) (id : Nat) (p : Progress) : (s.mark id p).mlc = s.mlc := rfl
@[simp] theorem State.mark_hoc (s : State) (id : Nat) (p : Progress) : (s.mark id p).hoc = s.hoc := rfl
@[simp] theorem State.mark_ups (s : State) (id : Nat) (p : Progress) : (s.mark id p).ups = s.ups := rfl
@[simp] theorem State.mark_fls (s : State) (id : Nat) (p : Progress) : (s.mark id p).fls = s.fls := rfl
@[simp] theorem State.mark_exu_areaLow (s : State) (id : Nat) (p : Progress) : (s.mark id p).exu.areaLow = s.exu.areaLow :=
    rfl
@[simp] theorem State.mark_exu_areaHigh (s : State) (id : Nat) (p : Progress) : (s.mark id p).exu.areaHigh = s.exu.areaHigh :=
    rfl
@[simp] theorem State.mark_exu_areaSize (s : State) (id : Nat) (p : Progress) : (s.mark id p).exu.areaSize = s.exu.areaSize :=
    rfl
@[simp] theorem State.mark_exu_events (s : State) (id : Nat) (p : Progress) : (s.mark id p).exu.events = s.exu.events :=
    rfl
@[simp] theorem State.mark_exu_eventMask (s : State) (id : Nat) (p : Progress) : (s.mark id p).exu.eventMask = s.exu.eventMask :=
    rfl
@[simp] theorem State.mark_exu_engine (s : State) (id : Nat) (p : Progress) : (s.mark id p).exu.engine = s.exu.engine :=
    rfl
@[simp] theorem State.mark_exu_fault (s : State) (id : Nat) (p : Progress) : (s.mark id p).exu.fault = s.exu.fault :=
    rfl
@[simp] theorem State.mark_exu_area (s : State) (id : Nat) (p : Progress) : (s.mark id p).exu.area = s.exu.area := rfl
@[simp] theorem State.mark_exu_runWait (s : State) (id : Nat) (p : Progress) : (s.mark id p).exu.runWait = s.exu.runWait :=
    rfl
@[simp] theorem State.mark_exu_resetUntil (s : State) (id : Nat) (p : Progress) : (s.mark id p).exu.resetUntil = s.exu.resetUntil :=
    rfl
@[simp] theorem State.mark_exu_cursor (s : State) (id : Nat) (p : Progress) : (s.mark id p).exu.cursor = s.exu.cursor :=
    rfl
@[simp] theorem State.mark_exu_reportPos (s : State) (id : Nat) (p : Progress) : (s.mark id p).exu.reportPos = s.exu.reportPos :=
    rfl
@[simp] theorem State.mark_exu_look (s : State) (id : Nat) (p : Progress) : (s.mark id p).exu.look = s.exu.look := rfl
@[simp] theorem State.mark_exu_lookPending (s : State) (id : Nat) (p : Progress) : (s.mark id p).exu.lookPending = s.exu.lookPending :=
    rfl
@[simp] theorem State.mark_exu_scanPeriod (s : State) (id : Nat) (p : Progress) : (s.mark id p).exu.scanPeriod = s.exu.scanPeriod :=
    rfl
@[simp] theorem State.mark_exu_scanAt (s : State) (id : Nat) (p : Progress) : (s.mark id p).exu.scanAt = s.exu.scanAt :=
    rfl
@[simp] theorem State.mark_exu_nextOrder (s : State) (id : Nat) (p : Progress) : (s.mark id p).exu.nextOrder = s.exu.nextOrder :=
    rfl
@[simp] theorem State.mark_exu_answers (s : State) (id : Nat) (p : Progress) : (s.mark id p).exu.answers = s.exu.answers :=
    rfl
@[simp] theorem State.mark_exu_lastTaken (s : State) (id : Nat) (p : Progress) : (s.mark id p).exu.lastTaken = s.exu.lastTaken :=
    rfl
@[simp] theorem State.mark_exu_arrivals (s : State) (id : Nat) (p : Progress) : (s.mark id p).exu.arrivals = s.exu.arrivals :=
    rfl
@[simp] theorem State.mark_exu_hold (s : State) (id : Nat) (p : Progress) : (s.mark id p).exu.hold = s.exu.hold := rfl
@[simp] theorem State.mark_exu_blocked (s : State) (id : Nat) (p : Progress) : (s.mark id p).exu.blocked = s.exu.blocked :=
    rfl
@[simp] theorem State.mark_exu_place (s : State) (id : Nat) (p : Progress) : (s.mark id p).exu.place = s.exu.place :=
    rfl
@[simp] theorem State.mark_exu_bus (s : State) (id : Nat) (p : Progress) : (s.mark id p).exu.bus = s.exu.bus := rfl
@[simp] theorem State.mark_exu_busWait (s : State) (id : Nat) (p : Progress) : (s.mark id p).exu.busWait = s.exu.busWait :=
    rfl
@[simp] theorem State.mark_exu_readPos (s : State) (id : Nat) (p : Progress) : (s.mark id p).exu.readPos = s.exu.readPos :=
    rfl
@[simp] theorem State.mark_exu_tableWork (s : State) (id : Nat) (p : Progress) : (s.mark id p).exu.tableWork = s.exu.tableWork :=
    rfl
@[simp] theorem State.mark_exu_msi (s : State) (id : Nat) (p : Progress) : (s.mark id p).exu.msi = s.exu.msi := rfl

/-! ## `State.finish` -/

@[simp] theorem State.finish_pending (s : State) (id : Nat) (c : Status) (d : Byte) (l : List Byte) : (s.finish id c d l).pending = s.pending :=
    rfl
@[simp] theorem State.finish_frp (s : State) (id : Nat) (c : Status) (d : Byte) (l : List Byte) : (s.finish id c d l).frp = s.frp :=
    rfl
@[simp] theorem State.finish_flc (s : State) (id : Nat) (c : Status) (d : Byte) (l : List Byte) : (s.finish id c d l).flc = s.flc :=
    rfl
@[simp] theorem State.finish_stt (s : State) (id : Nat) (c : Status) (d : Byte) (l : List Byte) : (s.finish id c d l).stt = s.stt :=
    rfl
@[simp] theorem State.finish_sck (s : State) (id : Nat) (c : Status) (d : Byte) (l : List Byte) : (s.finish id c d l).sck = s.sck :=
    rfl
@[simp] theorem State.finish_pfe (s : State) (id : Nat) (c : Status) (d : Byte) (l : List Byte) : (s.finish id c d l).pfe = s.pfe :=
    rfl
@[simp] theorem State.finish_mlc (s : State) (id : Nat) (c : Status) (d : Byte) (l : List Byte) : (s.finish id c d l).mlc = s.mlc :=
    rfl
@[simp] theorem State.finish_hoc (s : State) (id : Nat) (c : Status) (d : Byte) (l : List Byte) : (s.finish id c d l).hoc = s.hoc :=
    rfl
@[simp] theorem State.finish_ups (s : State) (id : Nat) (c : Status) (d : Byte) (l : List Byte) : (s.finish id c d l).ups = s.ups :=
    rfl
@[simp] theorem State.finish_fls (s : State) (id : Nat) (c : Status) (d : Byte) (l : List Byte) : (s.finish id c d l).fls = s.fls :=
    rfl
@[simp] theorem State.finish_exu_areaLow (s : State) (id : Nat) (c : Status) (d : Byte) (l : List Byte) : (s.finish id c d l).exu.areaLow = s.exu.areaLow :=
    rfl
@[simp] theorem State.finish_exu_areaHigh (s : State) (id : Nat) (c : Status) (d : Byte) (l : List Byte) : (s.finish id c d l).exu.areaHigh = s.exu.areaHigh :=
    rfl
@[simp] theorem State.finish_exu_areaSize (s : State) (id : Nat) (c : Status) (d : Byte) (l : List Byte) : (s.finish id c d l).exu.areaSize = s.exu.areaSize :=
    rfl
@[simp] theorem State.finish_exu_events (s : State) (id : Nat) (c : Status) (d : Byte) (l : List Byte) : (s.finish id c d l).exu.events = s.exu.events :=
    rfl
@[simp] theorem State.finish_exu_eventMask (s : State) (id : Nat) (c : Status) (d : Byte) (l : List Byte) : (s.finish id c d l).exu.eventMask = s.exu.eventMask :=
    rfl
@[simp] theorem State.finish_exu_engine (s : State) (id : Nat) (c : Status) (d : Byte) (l : List Byte) : (s.finish id c d l).exu.engine = s.exu.engine :=
    rfl
@[simp] theorem State.finish_exu_fault (s : State) (id : Nat) (c : Status) (d : Byte) (l : List Byte) : (s.finish id c d l).exu.fault = s.exu.fault :=
    rfl
@[simp] theorem State.finish_exu_area (s : State) (id : Nat) (c : Status) (d : Byte) (l : List Byte) : (s.finish id c d l).exu.area = s.exu.area :=
    rfl
@[simp] theorem State.finish_exu_runWait (s : State) (id : Nat) (c : Status) (d : Byte) (l : List Byte) : (s.finish id c d l).exu.runWait = s.exu.runWait :=
    rfl
@[simp] theorem State.finish_exu_resetUntil (s : State) (id : Nat) (c : Status) (d : Byte) (l : List Byte) : (s.finish id c d l).exu.resetUntil = s.exu.resetUntil :=
    rfl
@[simp] theorem State.finish_exu_cursor (s : State) (id : Nat) (c : Status) (d : Byte) (l : List Byte) : (s.finish id c d l).exu.cursor = s.exu.cursor :=
    rfl
@[simp] theorem State.finish_exu_reportPos (s : State) (id : Nat) (c : Status) (d : Byte) (l : List Byte) : (s.finish id c d l).exu.reportPos = s.exu.reportPos :=
    rfl
@[simp] theorem State.finish_exu_look (s : State) (id : Nat) (c : Status) (d : Byte) (l : List Byte) : (s.finish id c d l).exu.look = s.exu.look :=
    rfl
@[simp] theorem State.finish_exu_lookPending (s : State) (id : Nat) (c : Status) (d : Byte) (l : List Byte) : (s.finish id c d l).exu.lookPending = s.exu.lookPending :=
    rfl
@[simp] theorem State.finish_exu_scanPeriod (s : State) (id : Nat) (c : Status) (d : Byte) (l : List Byte) : (s.finish id c d l).exu.scanPeriod = s.exu.scanPeriod :=
    rfl
@[simp] theorem State.finish_exu_scanAt (s : State) (id : Nat) (c : Status) (d : Byte) (l : List Byte) : (s.finish id c d l).exu.scanAt = s.exu.scanAt :=
    rfl
@[simp] theorem State.finish_exu_nextOrder (s : State) (id : Nat) (c : Status) (d : Byte) (l : List Byte) : (s.finish id c d l).exu.nextOrder = s.exu.nextOrder :=
    rfl
@[simp] theorem State.finish_exu_answers (s : State) (id : Nat) (c : Status) (d : Byte) (l : List Byte) :
    (s.finish id c d l).exu.answers = s.exu.answers ++ [⟨id, c, d, l⟩] := rfl
@[simp] theorem State.finish_exu_lastTaken (s : State) (id : Nat) (c : Status) (d : Byte) (l : List Byte) : (s.finish id c d l).exu.lastTaken = s.exu.lastTaken :=
    rfl
@[simp] theorem State.finish_exu_arrivals (s : State) (id : Nat) (c : Status) (d : Byte) (l : List Byte) : (s.finish id c d l).exu.arrivals = s.exu.arrivals :=
    rfl
@[simp] theorem State.finish_exu_hold (s : State) (id : Nat) (c : Status) (d : Byte) (l : List Byte) : (s.finish id c d l).exu.hold = s.exu.hold :=
    rfl
@[simp] theorem State.finish_exu_blocked (s : State) (id : Nat) (c : Status) (d : Byte) (l : List Byte) : (s.finish id c d l).exu.blocked = s.exu.blocked :=
    rfl
@[simp] theorem State.finish_exu_place (s : State) (id : Nat) (c : Status) (d : Byte) (l : List Byte) : (s.finish id c d l).exu.place = s.exu.place :=
    rfl
@[simp] theorem State.finish_exu_bus (s : State) (id : Nat) (c : Status) (d : Byte) (l : List Byte) : (s.finish id c d l).exu.bus = s.exu.bus :=
    rfl
@[simp] theorem State.finish_exu_busWait (s : State) (id : Nat) (c : Status) (d : Byte) (l : List Byte) : (s.finish id c d l).exu.busWait = s.exu.busWait :=
    rfl
@[simp] theorem State.finish_exu_readPos (s : State) (id : Nat) (c : Status) (d : Byte) (l : List Byte) : (s.finish id c d l).exu.readPos = s.exu.readPos :=
    rfl
@[simp] theorem State.finish_exu_tableWork (s : State) (id : Nat) (c : Status) (d : Byte) (l : List Byte) : (s.finish id c d l).exu.tableWork = s.exu.tableWork :=
    rfl
@[simp] theorem State.finish_exu_msi (s : State) (id : Nat) (c : Status) (d : Byte) (l : List Byte) : (s.finish id c d l).exu.msi = s.exu.msi :=
    rfl

/-! ## `State.refuse` -/

@[simp] theorem State.refuse_pending (s : State) (o : Order) (c : Status) : (s.refuse o c).pending = s.pending := rfl
@[simp] theorem State.refuse_frp (s : State) (o : Order) (c : Status) : (s.refuse o c).frp = s.frp := rfl
@[simp] theorem State.refuse_flc (s : State) (o : Order) (c : Status) : (s.refuse o c).flc = s.flc := rfl
@[simp] theorem State.refuse_stt (s : State) (o : Order) (c : Status) : (s.refuse o c).stt = s.stt := rfl
@[simp] theorem State.refuse_sck (s : State) (o : Order) (c : Status) : (s.refuse o c).sck = s.sck := rfl
@[simp] theorem State.refuse_pfe (s : State) (o : Order) (c : Status) : (s.refuse o c).pfe = s.pfe := rfl
@[simp] theorem State.refuse_mlc (s : State) (o : Order) (c : Status) : (s.refuse o c).mlc = s.mlc := rfl
@[simp] theorem State.refuse_hoc (s : State) (o : Order) (c : Status) : (s.refuse o c).hoc = s.hoc := rfl
@[simp] theorem State.refuse_ups (s : State) (o : Order) (c : Status) : (s.refuse o c).ups = s.ups := rfl
@[simp] theorem State.refuse_fls (s : State) (o : Order) (c : Status) : (s.refuse o c).fls = s.fls := rfl
@[simp] theorem State.refuse_exu_areaLow (s : State) (o : Order) (c : Status) : (s.refuse o c).exu.areaLow = s.exu.areaLow :=
    rfl
@[simp] theorem State.refuse_exu_areaHigh (s : State) (o : Order) (c : Status) : (s.refuse o c).exu.areaHigh = s.exu.areaHigh :=
    rfl
@[simp] theorem State.refuse_exu_areaSize (s : State) (o : Order) (c : Status) : (s.refuse o c).exu.areaSize = s.exu.areaSize :=
    rfl
@[simp] theorem State.refuse_exu_events (s : State) (o : Order) (c : Status) : (s.refuse o c).exu.events = s.exu.events :=
    rfl
@[simp] theorem State.refuse_exu_eventMask (s : State) (o : Order) (c : Status) : (s.refuse o c).exu.eventMask = s.exu.eventMask :=
    rfl
@[simp] theorem State.refuse_exu_engine (s : State) (o : Order) (c : Status) : (s.refuse o c).exu.engine = s.exu.engine :=
    rfl
@[simp] theorem State.refuse_exu_fault (s : State) (o : Order) (c : Status) : (s.refuse o c).exu.fault = s.exu.fault :=
    rfl
@[simp] theorem State.refuse_exu_area (s : State) (o : Order) (c : Status) : (s.refuse o c).exu.area = s.exu.area :=
    rfl
@[simp] theorem State.refuse_exu_runWait (s : State) (o : Order) (c : Status) : (s.refuse o c).exu.runWait = s.exu.runWait :=
    rfl
@[simp] theorem State.refuse_exu_resetUntil (s : State) (o : Order) (c : Status) : (s.refuse o c).exu.resetUntil = s.exu.resetUntil :=
    rfl
@[simp] theorem State.refuse_exu_cursor (s : State) (o : Order) (c : Status) : (s.refuse o c).exu.cursor = s.exu.cursor :=
    rfl
@[simp] theorem State.refuse_exu_reportPos (s : State) (o : Order) (c : Status) : (s.refuse o c).exu.reportPos = s.exu.reportPos :=
    rfl
@[simp] theorem State.refuse_exu_look (s : State) (o : Order) (c : Status) : (s.refuse o c).exu.look = s.exu.look :=
    rfl
@[simp] theorem State.refuse_exu_lookPending (s : State) (o : Order) (c : Status) : (s.refuse o c).exu.lookPending = s.exu.lookPending :=
    rfl
@[simp] theorem State.refuse_exu_scanPeriod (s : State) (o : Order) (c : Status) : (s.refuse o c).exu.scanPeriod = s.exu.scanPeriod :=
    rfl
@[simp] theorem State.refuse_exu_scanAt (s : State) (o : Order) (c : Status) : (s.refuse o c).exu.scanAt = s.exu.scanAt :=
    rfl
@[simp] theorem State.refuse_exu_nextOrder (s : State) (o : Order) (c : Status) : (s.refuse o c).exu.nextOrder = s.exu.nextOrder :=
    rfl
@[simp] theorem State.refuse_exu_answers (s : State) (o : Order) (c : Status) :
    (s.refuse o c).exu.answers = s.exu.answers ++ [⟨o.id, c, 0, []⟩] := rfl
@[simp] theorem State.refuse_exu_lastTaken (s : State) (o : Order) (c : Status) : (s.refuse o c).exu.lastTaken = s.exu.lastTaken :=
    rfl
@[simp] theorem State.refuse_exu_arrivals (s : State) (o : Order) (c : Status) : (s.refuse o c).exu.arrivals = s.exu.arrivals :=
    rfl
@[simp] theorem State.refuse_exu_hold (s : State) (o : Order) (c : Status) : (s.refuse o c).exu.hold = s.exu.hold :=
    rfl
@[simp] theorem State.refuse_exu_blocked (s : State) (o : Order) (c : Status) : (s.refuse o c).exu.blocked = s.exu.blocked :=
    rfl
@[simp] theorem State.refuse_exu_place (s : State) (o : Order) (c : Status) : (s.refuse o c).exu.place = s.exu.place :=
    rfl
@[simp] theorem State.refuse_exu_bus (s : State) (o : Order) (c : Status) : (s.refuse o c).exu.bus = s.exu.bus := rfl
@[simp] theorem State.refuse_exu_busWait (s : State) (o : Order) (c : Status) : (s.refuse o c).exu.busWait = s.exu.busWait :=
    rfl
@[simp] theorem State.refuse_exu_readPos (s : State) (o : Order) (c : Status) : (s.refuse o c).exu.readPos = s.exu.readPos :=
    rfl
@[simp] theorem State.refuse_exu_tableWork (s : State) (o : Order) (c : Status) : (s.refuse o c).exu.tableWork = s.exu.tableWork :=
    rfl
@[simp] theorem State.refuse_exu_msi (s : State) (o : Order) (c : Status) : (s.refuse o c).exu.msi = s.exu.msi := rfl

/-! ## `State.accept` -/

@[simp] theorem State.accept_pending (s : State) (o : Order) (l : List Byte) : (s.accept o l).pending = s.pending :=
    rfl
@[simp] theorem State.accept_frp (s : State) (o : Order) (l : List Byte) : (s.accept o l).frp = s.frp := rfl
@[simp] theorem State.accept_flc (s : State) (o : Order) (l : List Byte) : (s.accept o l).flc = s.flc := rfl
@[simp] theorem State.accept_stt (s : State) (o : Order) (l : List Byte) : (s.accept o l).stt = s.stt := rfl
@[simp] theorem State.accept_sck (s : State) (o : Order) (l : List Byte) : (s.accept o l).sck = s.sck := rfl
@[simp] theorem State.accept_pfe (s : State) (o : Order) (l : List Byte) : (s.accept o l).pfe = s.pfe := rfl
@[simp] theorem State.accept_mlc (s : State) (o : Order) (l : List Byte) : (s.accept o l).mlc = s.mlc := rfl
@[simp] theorem State.accept_hoc (s : State) (o : Order) (l : List Byte) : (s.accept o l).hoc = s.hoc := rfl
@[simp] theorem State.accept_ups (s : State) (o : Order) (l : List Byte) : (s.accept o l).ups = s.ups := rfl
@[simp] theorem State.accept_fls (s : State) (o : Order) (l : List Byte) : (s.accept o l).fls = s.fls := rfl
@[simp] theorem State.accept_exu_areaLow (s : State) (o : Order) (l : List Byte) : (s.accept o l).exu.areaLow = s.exu.areaLow :=
    rfl
@[simp] theorem State.accept_exu_areaHigh (s : State) (o : Order) (l : List Byte) : (s.accept o l).exu.areaHigh = s.exu.areaHigh :=
    rfl
@[simp] theorem State.accept_exu_areaSize (s : State) (o : Order) (l : List Byte) : (s.accept o l).exu.areaSize = s.exu.areaSize :=
    rfl
@[simp] theorem State.accept_exu_events (s : State) (o : Order) (l : List Byte) : (s.accept o l).exu.events = s.exu.events :=
    rfl
@[simp] theorem State.accept_exu_eventMask (s : State) (o : Order) (l : List Byte) : (s.accept o l).exu.eventMask = s.exu.eventMask :=
    rfl
@[simp] theorem State.accept_exu_engine (s : State) (o : Order) (l : List Byte) : (s.accept o l).exu.engine = s.exu.engine :=
    rfl
@[simp] theorem State.accept_exu_fault (s : State) (o : Order) (l : List Byte) : (s.accept o l).exu.fault = s.exu.fault :=
    rfl
@[simp] theorem State.accept_exu_area (s : State) (o : Order) (l : List Byte) : (s.accept o l).exu.area = s.exu.area :=
    rfl
@[simp] theorem State.accept_exu_runWait (s : State) (o : Order) (l : List Byte) : (s.accept o l).exu.runWait = s.exu.runWait :=
    rfl
@[simp] theorem State.accept_exu_resetUntil (s : State) (o : Order) (l : List Byte) : (s.accept o l).exu.resetUntil = s.exu.resetUntil :=
    rfl
@[simp] theorem State.accept_exu_cursor (s : State) (o : Order) (l : List Byte) : (s.accept o l).exu.cursor = s.exu.cursor :=
    rfl
@[simp] theorem State.accept_exu_reportPos (s : State) (o : Order) (l : List Byte) : (s.accept o l).exu.reportPos = s.exu.reportPos :=
    rfl
@[simp] theorem State.accept_exu_look (s : State) (o : Order) (l : List Byte) : (s.accept o l).exu.look = s.exu.look :=
    rfl
@[simp] theorem State.accept_exu_lookPending (s : State) (o : Order) (l : List Byte) : (s.accept o l).exu.lookPending = s.exu.lookPending :=
    rfl
@[simp] theorem State.accept_exu_scanPeriod (s : State) (o : Order) (l : List Byte) : (s.accept o l).exu.scanPeriod = s.exu.scanPeriod :=
    rfl
@[simp] theorem State.accept_exu_scanAt (s : State) (o : Order) (l : List Byte) : (s.accept o l).exu.scanAt = s.exu.scanAt :=
    rfl
@[simp] theorem State.accept_exu_nextOrder (s : State) (o : Order) (l : List Byte) : (s.accept o l).exu.nextOrder = s.exu.nextOrder :=
    rfl
@[simp] theorem State.accept_exu_answers (s : State) (o : Order) (l : List Byte) :
    (s.accept o l).exu.answers = s.exu.answers ++ [⟨o.id, .ok, 0, l⟩] := rfl
@[simp] theorem State.accept_exu_lastTaken (s : State) (o : Order) (l : List Byte) : (s.accept o l).exu.lastTaken = s.exu.lastTaken :=
    rfl
@[simp] theorem State.accept_exu_arrivals (s : State) (o : Order) (l : List Byte) : (s.accept o l).exu.arrivals = s.exu.arrivals :=
    rfl
@[simp] theorem State.accept_exu_hold (s : State) (o : Order) (l : List Byte) : (s.accept o l).exu.hold = s.exu.hold :=
    rfl
@[simp] theorem State.accept_exu_blocked (s : State) (o : Order) (l : List Byte) : (s.accept o l).exu.blocked = s.exu.blocked :=
    rfl
@[simp] theorem State.accept_exu_place (s : State) (o : Order) (l : List Byte) : (s.accept o l).exu.place = s.exu.place :=
    rfl
@[simp] theorem State.accept_exu_bus (s : State) (o : Order) (l : List Byte) : (s.accept o l).exu.bus = s.exu.bus :=
    rfl
@[simp] theorem State.accept_exu_busWait (s : State) (o : Order) (l : List Byte) : (s.accept o l).exu.busWait = s.exu.busWait :=
    rfl
@[simp] theorem State.accept_exu_readPos (s : State) (o : Order) (l : List Byte) : (s.accept o l).exu.readPos = s.exu.readPos :=
    rfl
@[simp] theorem State.accept_exu_tableWork (s : State) (o : Order) (l : List Byte) : (s.accept o l).exu.tableWork = s.exu.tableWork :=
    rfl
@[simp] theorem State.accept_exu_msi (s : State) (o : Order) (l : List Byte) : (s.accept o l).exu.msi = s.exu.msi :=
    rfl

/-! ## `State.dropBulk` -/

@[simp] theorem State.dropBulk_pending (s : State) (id : Nat) : (s.dropBulk id).pending = s.pending := rfl
@[simp] theorem State.dropBulk_frp (s : State) (id : Nat) : (s.dropBulk id).frp = s.frp := rfl
@[simp] theorem State.dropBulk_flc (s : State) (id : Nat) : (s.dropBulk id).flc = s.flc := rfl
@[simp] theorem State.dropBulk_stt (s : State) (id : Nat) : (s.dropBulk id).stt = s.stt := rfl
@[simp] theorem State.dropBulk_sck (s : State) (id : Nat) : (s.dropBulk id).sck = s.sck := rfl
@[simp] theorem State.dropBulk_pfe (s : State) (id : Nat) : (s.dropBulk id).pfe = s.pfe := rfl
@[simp] theorem State.dropBulk_mlc (s : State) (id : Nat) : (s.dropBulk id).mlc = s.mlc := rfl
@[simp] theorem State.dropBulk_hoc (s : State) (id : Nat) : (s.dropBulk id).hoc = s.hoc := rfl
@[simp] theorem State.dropBulk_ups (s : State) (id : Nat) : (s.dropBulk id).ups = s.ups := rfl
@[simp] theorem State.dropBulk_fls (s : State) (id : Nat) : (s.dropBulk id).fls = s.fls := rfl
@[simp] theorem State.dropBulk_exu_areaLow (s : State) (id : Nat) : (s.dropBulk id).exu.areaLow = s.exu.areaLow := rfl
@[simp] theorem State.dropBulk_exu_areaHigh (s : State) (id : Nat) : (s.dropBulk id).exu.areaHigh = s.exu.areaHigh :=
    rfl
@[simp] theorem State.dropBulk_exu_areaSize (s : State) (id : Nat) : (s.dropBulk id).exu.areaSize = s.exu.areaSize :=
    rfl
@[simp] theorem State.dropBulk_exu_events (s : State) (id : Nat) : (s.dropBulk id).exu.events = s.exu.events := rfl
@[simp] theorem State.dropBulk_exu_eventMask (s : State) (id : Nat) : (s.dropBulk id).exu.eventMask = s.exu.eventMask :=
    rfl
@[simp] theorem State.dropBulk_exu_engine (s : State) (id : Nat) : (s.dropBulk id).exu.engine = s.exu.engine := rfl
@[simp] theorem State.dropBulk_exu_fault (s : State) (id : Nat) : (s.dropBulk id).exu.fault = s.exu.fault := rfl
@[simp] theorem State.dropBulk_exu_area (s : State) (id : Nat) : (s.dropBulk id).exu.area = s.exu.area := rfl
@[simp] theorem State.dropBulk_exu_runWait (s : State) (id : Nat) : (s.dropBulk id).exu.runWait = s.exu.runWait := rfl
@[simp] theorem State.dropBulk_exu_resetUntil (s : State) (id : Nat) : (s.dropBulk id).exu.resetUntil = s.exu.resetUntil :=
    rfl
@[simp] theorem State.dropBulk_exu_cursor (s : State) (id : Nat) : (s.dropBulk id).exu.cursor = s.exu.cursor := rfl
@[simp] theorem State.dropBulk_exu_reportPos (s : State) (id : Nat) : (s.dropBulk id).exu.reportPos = s.exu.reportPos :=
    rfl
@[simp] theorem State.dropBulk_exu_look (s : State) (id : Nat) : (s.dropBulk id).exu.look = s.exu.look := rfl
@[simp] theorem State.dropBulk_exu_lookPending (s : State) (id : Nat) : (s.dropBulk id).exu.lookPending = s.exu.lookPending :=
    rfl
@[simp] theorem State.dropBulk_exu_scanPeriod (s : State) (id : Nat) : (s.dropBulk id).exu.scanPeriod = s.exu.scanPeriod :=
    rfl
@[simp] theorem State.dropBulk_exu_scanAt (s : State) (id : Nat) : (s.dropBulk id).exu.scanAt = s.exu.scanAt := rfl
@[simp] theorem State.dropBulk_exu_inFlight (s : State) (id : Nat) : (s.dropBulk id).exu.inFlight = s.exu.inFlight :=
    rfl
@[simp] theorem State.dropBulk_exu_nextOrder (s : State) (id : Nat) : (s.dropBulk id).exu.nextOrder = s.exu.nextOrder :=
    rfl
@[simp] theorem State.dropBulk_exu_answers (s : State) (id : Nat) : (s.dropBulk id).exu.answers = s.exu.answers := rfl
@[simp] theorem State.dropBulk_exu_lastTaken (s : State) (id : Nat) : (s.dropBulk id).exu.lastTaken = s.exu.lastTaken :=
    rfl
@[simp] theorem State.dropBulk_exu_arrivals (s : State) (id : Nat) : (s.dropBulk id).exu.arrivals = s.exu.arrivals :=
    rfl
@[simp] theorem State.dropBulk_exu_hold (s : State) (id : Nat) : (s.dropBulk id).exu.hold = s.exu.hold := rfl
@[simp] theorem State.dropBulk_exu_blocked (s : State) (id : Nat) : (s.dropBulk id).exu.blocked = s.exu.blocked := rfl
@[simp] theorem State.dropBulk_exu_place (s : State) (id : Nat) : (s.dropBulk id).exu.place = s.exu.place := rfl
@[simp] theorem State.dropBulk_exu_readPos (s : State) (id : Nat) : (s.dropBulk id).exu.readPos = s.exu.readPos := rfl
@[simp] theorem State.dropBulk_exu_tableWork (s : State) (id : Nat) : (s.dropBulk id).exu.tableWork = s.exu.tableWork :=
    rfl
@[simp] theorem State.dropBulk_exu_msi (s : State) (id : Nat) : (s.dropBulk id).exu.msi = s.exu.msi := rfl

/-! ## `State.setFlowWay` -/

@[simp] theorem State.setFlowWay_pending (s : State) (k : Fin 256) (w : Fin 4) (f : Option Flow) : (s.setFlowWay k w f).pending = s.pending :=
    rfl
@[simp] theorem State.setFlowWay_exu (s : State) (k : Fin 256) (w : Fin 4) (f : Option Flow) : (s.setFlowWay k w f).exu = s.exu :=
    rfl
@[simp] theorem State.setFlowWay_frp (s : State) (k : Fin 256) (w : Fin 4) (f : Option Flow) : (s.setFlowWay k w f).frp = s.frp :=
    rfl
@[simp] theorem State.setFlowWay_stt (s : State) (k : Fin 256) (w : Fin 4) (f : Option Flow) : (s.setFlowWay k w f).stt = s.stt :=
    rfl
@[simp] theorem State.setFlowWay_sck (s : State) (k : Fin 256) (w : Fin 4) (f : Option Flow) : (s.setFlowWay k w f).sck = s.sck :=
    rfl
@[simp] theorem State.setFlowWay_pfe (s : State) (k : Fin 256) (w : Fin 4) (f : Option Flow) : (s.setFlowWay k w f).pfe = s.pfe :=
    rfl
@[simp] theorem State.setFlowWay_mlc (s : State) (k : Fin 256) (w : Fin 4) (f : Option Flow) : (s.setFlowWay k w f).mlc = s.mlc :=
    rfl
@[simp] theorem State.setFlowWay_hoc (s : State) (k : Fin 256) (w : Fin 4) (f : Option Flow) : (s.setFlowWay k w f).hoc = s.hoc :=
    rfl
@[simp] theorem State.setFlowWay_ups (s : State) (k : Fin 256) (w : Fin 4) (f : Option Flow) : (s.setFlowWay k w f).ups = s.ups :=
    rfl
@[simp] theorem State.setFlowWay_fls (s : State) (k : Fin 256) (w : Fin 4) (f : Option Flow) : (s.setFlowWay k w f).fls = s.fls :=
    rfl
@[simp] theorem State.setFlowWay_flc_rules (s : State) (k : Fin 256) (w : Fin 4) (f : Option Flow) : (s.setFlowWay k w f).flc.rules = s.flc.rules :=
    rfl
@[simp] theorem State.setFlowWay_flc_limits (s : State) (k : Fin 256) (w : Fin 4) (f : Option Flow) : (s.setFlowWay k w f).flc.limits = s.flc.limits :=
    rfl
@[simp] theorem State.setFlowWay_flc_lastGame (s : State) (k : Fin 256) (w : Fin 4) (f : Option Flow) : (s.setFlowWay k w f).flc.lastGame = s.flc.lastGame :=
    rfl
@[simp] theorem State.setFlowWay_flc_quiet (s : State) (k : Fin 256) (w : Fin 4) (f : Option Flow) : (s.setFlowWay k w f).flc.quiet = s.flc.quiet :=
    rfl
@[simp] theorem State.setFlowWay_flc_agingDue (s : State) (k : Fin 256) (w : Fin 4) (f : Option Flow) : (s.setFlowWay k w f).flc.agingDue = s.flc.agingDue :=
    rfl

/-! ## `State.placeFlow` -/

@[simp] theorem State.placeFlow_pending (s : State) (f : Flow) : (s.placeFlow f).pending = s.pending := rfl
@[simp] theorem State.placeFlow_exu (s : State) (f : Flow) : (s.placeFlow f).exu = s.exu := rfl
@[simp] theorem State.placeFlow_frp (s : State) (f : Flow) : (s.placeFlow f).frp = s.frp := rfl
@[simp] theorem State.placeFlow_stt (s : State) (f : Flow) : (s.placeFlow f).stt = s.stt := rfl
@[simp] theorem State.placeFlow_sck (s : State) (f : Flow) : (s.placeFlow f).sck = s.sck := rfl
@[simp] theorem State.placeFlow_pfe (s : State) (f : Flow) : (s.placeFlow f).pfe = s.pfe := rfl
@[simp] theorem State.placeFlow_mlc (s : State) (f : Flow) : (s.placeFlow f).mlc = s.mlc := rfl
@[simp] theorem State.placeFlow_hoc (s : State) (f : Flow) : (s.placeFlow f).hoc = s.hoc := rfl
@[simp] theorem State.placeFlow_ups (s : State) (f : Flow) : (s.placeFlow f).ups = s.ups := rfl
@[simp] theorem State.placeFlow_fls (s : State) (f : Flow) : (s.placeFlow f).fls = s.fls := rfl
@[simp] theorem State.placeFlow_flc_rules (s : State) (f : Flow) : (s.placeFlow f).flc.rules = s.flc.rules := rfl
@[simp] theorem State.placeFlow_flc_limits (s : State) (f : Flow) : (s.placeFlow f).flc.limits = s.flc.limits := rfl
@[simp] theorem State.placeFlow_flc_lastGame (s : State) (f : Flow) : (s.placeFlow f).flc.lastGame = s.flc.lastGame :=
    rfl
@[simp] theorem State.placeFlow_flc_quiet (s : State) (f : Flow) : (s.placeFlow f).flc.quiet = s.flc.quiet := rfl
@[simp] theorem State.placeFlow_flc_agingDue (s : State) (f : Flow) : (s.placeFlow f).flc.agingDue = s.flc.agingDue :=
    rfl

/-! ## `State.dropFlows` -/

@[simp] theorem State.dropFlows_pending (s : State) (d : Flow → Bool) : (s.dropFlows d).pending = s.pending := rfl
@[simp] theorem State.dropFlows_exu (s : State) (d : Flow → Bool) : (s.dropFlows d).exu = s.exu := rfl
@[simp] theorem State.dropFlows_frp (s : State) (d : Flow → Bool) : (s.dropFlows d).frp = s.frp := rfl
@[simp] theorem State.dropFlows_stt (s : State) (d : Flow → Bool) : (s.dropFlows d).stt = s.stt := rfl
@[simp] theorem State.dropFlows_sck (s : State) (d : Flow → Bool) : (s.dropFlows d).sck = s.sck := rfl
@[simp] theorem State.dropFlows_pfe (s : State) (d : Flow → Bool) : (s.dropFlows d).pfe = s.pfe := rfl
@[simp] theorem State.dropFlows_mlc (s : State) (d : Flow → Bool) : (s.dropFlows d).mlc = s.mlc := rfl
@[simp] theorem State.dropFlows_hoc (s : State) (d : Flow → Bool) : (s.dropFlows d).hoc = s.hoc := rfl
@[simp] theorem State.dropFlows_ups (s : State) (d : Flow → Bool) : (s.dropFlows d).ups = s.ups := rfl
@[simp] theorem State.dropFlows_fls (s : State) (d : Flow → Bool) : (s.dropFlows d).fls = s.fls := rfl
@[simp] theorem State.dropFlows_flc_rules (s : State) (d : Flow → Bool) : (s.dropFlows d).flc.rules = s.flc.rules :=
    rfl
@[simp] theorem State.dropFlows_flc_limits (s : State) (d : Flow → Bool) : (s.dropFlows d).flc.limits = s.flc.limits :=
    rfl
@[simp] theorem State.dropFlows_flc_lastGame (s : State) (d : Flow → Bool) : (s.dropFlows d).flc.lastGame = s.flc.lastGame :=
    rfl
@[simp] theorem State.dropFlows_flc_quiet (s : State) (d : Flow → Bool) : (s.dropFlows d).flc.quiet = s.flc.quiet :=
    rfl
@[simp] theorem State.dropFlows_flc_agingDue (s : State) (d : Flow → Bool) : (s.dropFlows d).flc.agingDue = s.flc.agingDue :=
    rfl

/-! ## `State.putPeer` -/

@[simp] theorem State.putPeer_pending (s : State) (k : Fin 7) (q : Option Peer) : (s.putPeer k q).pending = s.pending :=
    rfl
@[simp] theorem State.putPeer_exu (s : State) (k : Fin 7) (q : Option Peer) : (s.putPeer k q).exu = s.exu := rfl
@[simp] theorem State.putPeer_frp (s : State) (k : Fin 7) (q : Option Peer) : (s.putPeer k q).frp = s.frp := rfl
@[simp] theorem State.putPeer_flc (s : State) (k : Fin 7) (q : Option Peer) : (s.putPeer k q).flc = s.flc := rfl
@[simp] theorem State.putPeer_stt (s : State) (k : Fin 7) (q : Option Peer) : (s.putPeer k q).stt = s.stt := rfl
@[simp] theorem State.putPeer_sck (s : State) (k : Fin 7) (q : Option Peer) : (s.putPeer k q).sck = s.sck := rfl
@[simp] theorem State.putPeer_pfe (s : State) (k : Fin 7) (q : Option Peer) : (s.putPeer k q).pfe = s.pfe := rfl
@[simp] theorem State.putPeer_hoc (s : State) (k : Fin 7) (q : Option Peer) : (s.putPeer k q).hoc = s.hoc := rfl
@[simp] theorem State.putPeer_ups (s : State) (k : Fin 7) (q : Option Peer) : (s.putPeer k q).ups = s.ups := rfl
@[simp] theorem State.putPeer_fls (s : State) (k : Fin 7) (q : Option Peer) : (s.putPeer k q).fls = s.fls := rfl
@[simp] theorem State.putPeer_mlc_set (s : State) (k : Fin 7) (q : Option Peer) : (s.putPeer k q).mlc.set = s.mlc.set :=
    rfl
@[simp] theorem State.putPeer_mlc_node (s : State) (k : Fin 7) (q : Option Peer) : (s.putPeer k q).mlc.node = s.mlc.node :=
    rfl
@[simp] theorem State.putPeer_mlc_mac (s : State) (k : Fin 7) (q : Option Peer) : (s.putPeer k q).mlc.mac = s.mlc.mac :=
    rfl
@[simp] theorem State.putPeer_mlc_etherType (s : State) (k : Fin 7) (q : Option Peer) : (s.putPeer k q).mlc.etherType = s.mlc.etherType :=
    rfl
@[simp] theorem State.putPeer_mlc_enable (s : State) (k : Fin 7) (q : Option Peer) : (s.putPeer k q).mlc.enable = s.mlc.enable :=
    rfl
@[simp] theorem State.putPeer_mlc_peers (s : State) (k : Fin 7) (q : Option Peer) :
    (s.putPeer k q).mlc.peers = put s.mlc.peers k q := rfl
@[simp] theorem State.putPeer_mlc_seq (s : State) (k : Fin 7) (q : Option Peer) : (s.putPeer k q).mlc.seq = s.mlc.seq :=
    rfl
@[simp] theorem State.putPeer_mlc_handoffCount (s : State) (k : Fin 7) (q : Option Peer) : (s.putPeer k q).mlc.handoffCount = s.mlc.handoffCount :=
    rfl
@[simp] theorem State.putPeer_mlc_discards (s : State) (k : Fin 7) (q : Option Peer) : (s.putPeer k q).mlc.discards = s.mlc.discards :=
    rfl
@[simp] theorem State.putPeer_mlc_frames (s : State) (k : Fin 7) (q : Option Peer) : (s.putPeer k q).mlc.frames = s.mlc.frames :=
    rfl
@[simp] theorem State.putPeer_mlc_beaconDue (s : State) (k : Fin 7) (q : Option Peer) : (s.putPeer k q).mlc.beaconDue = s.mlc.beaconDue :=
    rfl
@[simp] theorem State.putPeer_mlc_presence (s : State) (k : Fin 7) (q : Option Peer) : (s.putPeer k q).mlc.presence = s.mlc.presence :=
    rfl

/-! ## `State.setListen` -/

@[simp] theorem State.setListen_pending (s : State) (l : List Listen) : (s.setListen l).pending = s.pending := rfl
@[simp] theorem State.setListen_exu (s : State) (l : List Listen) : (s.setListen l).exu = s.exu := rfl
@[simp] theorem State.setListen_frp (s : State) (l : List Listen) : (s.setListen l).frp = s.frp := rfl
@[simp] theorem State.setListen_flc (s : State) (l : List Listen) : (s.setListen l).flc = s.flc := rfl
@[simp] theorem State.setListen_stt (s : State) (l : List Listen) : (s.setListen l).stt = s.stt := rfl
@[simp] theorem State.setListen_sck (s : State) (l : List Listen) : (s.setListen l).sck = s.sck := rfl
@[simp] theorem State.setListen_pfe (s : State) (l : List Listen) : (s.setListen l).pfe = s.pfe := rfl
@[simp] theorem State.setListen_mlc (s : State) (l : List Listen) : (s.setListen l).mlc = s.mlc := rfl
@[simp] theorem State.setListen_ups (s : State) (l : List Listen) : (s.setListen l).ups = s.ups := rfl
@[simp] theorem State.setListen_fls (s : State) (l : List Listen) : (s.setListen l).fls = s.fls := rfl
@[simp] theorem State.setListen_hoc_roaming (s : State) (l : List Listen) : (s.setListen l).hoc.roaming = s.hoc.roaming :=
    rfl
@[simp] theorem State.setListen_hoc_checkAt (s : State) (l : List Listen) : (s.setListen l).hoc.checkAt = s.hoc.checkAt :=
    rfl
@[simp] theorem State.setListen_hoc_listen (s : State) (l : List Listen) :
    (s.setListen l).hoc.listen = l := rfl
@[simp] theorem State.setListen_hoc_messages (s : State) (l : List Listen) : (s.setListen l).hoc.messages = s.hoc.messages :=
    rfl
@[simp] theorem State.setListen_hoc_forced (s : State) (l : List Listen) : (s.setListen l).hoc.forced = s.hoc.forced :=
    rfl

/-! ## `State.setWork` -/

@[simp] theorem State.setWork_pending (s : State) (w : UpsWork) : (s.setWork w).pending = s.pending := rfl
@[simp] theorem State.setWork_exu (s : State) (w : UpsWork) : (s.setWork w).exu = s.exu := rfl
@[simp] theorem State.setWork_frp (s : State) (w : UpsWork) : (s.setWork w).frp = s.frp := rfl
@[simp] theorem State.setWork_flc (s : State) (w : UpsWork) : (s.setWork w).flc = s.flc := rfl
@[simp] theorem State.setWork_stt (s : State) (w : UpsWork) : (s.setWork w).stt = s.stt := rfl
@[simp] theorem State.setWork_sck (s : State) (w : UpsWork) : (s.setWork w).sck = s.sck := rfl
@[simp] theorem State.setWork_pfe (s : State) (w : UpsWork) : (s.setWork w).pfe = s.pfe := rfl
@[simp] theorem State.setWork_mlc (s : State) (w : UpsWork) : (s.setWork w).mlc = s.mlc := rfl
@[simp] theorem State.setWork_hoc (s : State) (w : UpsWork) : (s.setWork w).hoc = s.hoc := rfl
@[simp] theorem State.setWork_fls (s : State) (w : UpsWork) : (s.setWork w).fls = s.fls := rfl
@[simp] theorem State.setWork_ups_state (s : State) (w : UpsWork) : (s.setWork w).ups.state = s.ups.state := rfl
@[simp] theorem State.setWork_ups_manifest (s : State) (w : UpsWork) : (s.setWork w).ups.manifest = s.ups.manifest :=
    rfl
@[simp] theorem State.setWork_ups_map (s : State) (w : UpsWork) : (s.setWork w).ups.map = s.ups.map := rfl
@[simp] theorem State.setWork_ups_bufs (s : State) (w : UpsWork) : (s.setWork w).ups.bufs = s.ups.bufs := rfl
@[simp] theorem State.setWork_ups_work (s : State) (w : UpsWork) :
    (s.setWork w).ups.work = w := rfl
@[simp] theorem State.setWork_ups_fetch (s : State) (w : UpsWork) : (s.setWork w).ups.fetch = s.ups.fetch := rfl
@[simp] theorem State.setWork_ups_serves (s : State) (w : UpsWork) : (s.setWork w).ups.serves = s.ups.serves := rfl
@[simp] theorem State.setWork_ups_serving (s : State) (w : UpsWork) : (s.setWork w).ups.serving = s.ups.serving := rfl
@[simp] theorem State.setWork_ups_serveGap (s : State) (w : UpsWork) : (s.setWork w).ups.serveGap = s.ups.serveGap :=
    rfl
@[simp] theorem State.setWork_ups_lastServe (s : State) (w : UpsWork) : (s.setWork w).ups.lastServe = s.ups.lastServe :=
    rfl
@[simp] theorem State.setWork_ups_cleanServes (s : State) (w : UpsWork) : (s.setWork w).ups.cleanServes = s.ups.cleanServes :=
    rfl
@[simp] theorem State.setWork_ups_window (s : State) (w : UpsWork) : (s.setWork w).ups.window = s.ups.window := rfl
@[simp] theorem State.setWork_ups_holdLimit (s : State) (w : UpsWork) : (s.setWork w).ups.holdLimit = s.ups.holdLimit :=
    rfl
@[simp] theorem State.setWork_ups_gapMin (s : State) (w : UpsWork) : (s.setWork w).ups.gapMin = s.ups.gapMin := rfl
@[simp] theorem State.setWork_ups_holdMinutes (s : State) (w : UpsWork) : (s.setWork w).ups.holdMinutes = s.ups.holdMinutes :=
    rfl
@[simp] theorem State.setWork_ups_minutes (s : State) (w : UpsWork) : (s.setWork w).ups.minutes = s.ups.minutes := rfl
@[simp] theorem State.setWork_ups_messages (s : State) (w : UpsWork) : (s.setWork w).ups.messages = s.ups.messages :=
    rfl

/-! ## `State.setChunk` -/

@[simp] theorem State.setChunk_pending (s : State) (k : Nat) (c : ChunkState) : (s.setChunk k c).pending = s.pending :=
    rfl
@[simp] theorem State.setChunk_exu (s : State) (k : Nat) (c : ChunkState) : (s.setChunk k c).exu = s.exu := rfl
@[simp] theorem State.setChunk_frp (s : State) (k : Nat) (c : ChunkState) : (s.setChunk k c).frp = s.frp := rfl
@[simp] theorem State.setChunk_flc (s : State) (k : Nat) (c : ChunkState) : (s.setChunk k c).flc = s.flc := rfl
@[simp] theorem State.setChunk_stt (s : State) (k : Nat) (c : ChunkState) : (s.setChunk k c).stt = s.stt := rfl
@[simp] theorem State.setChunk_sck (s : State) (k : Nat) (c : ChunkState) : (s.setChunk k c).sck = s.sck := rfl
@[simp] theorem State.setChunk_pfe (s : State) (k : Nat) (c : ChunkState) : (s.setChunk k c).pfe = s.pfe := rfl
@[simp] theorem State.setChunk_mlc (s : State) (k : Nat) (c : ChunkState) : (s.setChunk k c).mlc = s.mlc := rfl
@[simp] theorem State.setChunk_hoc (s : State) (k : Nat) (c : ChunkState) : (s.setChunk k c).hoc = s.hoc := rfl
@[simp] theorem State.setChunk_fls (s : State) (k : Nat) (c : ChunkState) : (s.setChunk k c).fls = s.fls := rfl
@[simp] theorem State.setChunk_ups_state (s : State) (k : Nat) (c : ChunkState) : (s.setChunk k c).ups.state = s.ups.state :=
    rfl
@[simp] theorem State.setChunk_ups_manifest (s : State) (k : Nat) (c : ChunkState) : (s.setChunk k c).ups.manifest = s.ups.manifest :=
    rfl
@[simp] theorem State.setChunk_ups_map (s : State) (k : Nat) (c : ChunkState) :
    (s.setChunk k c).ups.map = s.ups.map.set k c := rfl
@[simp] theorem State.setChunk_ups_bufs (s : State) (k : Nat) (c : ChunkState) : (s.setChunk k c).ups.bufs = s.ups.bufs :=
    rfl
@[simp] theorem State.setChunk_ups_work (s : State) (k : Nat) (c : ChunkState) : (s.setChunk k c).ups.work = s.ups.work :=
    rfl
@[simp] theorem State.setChunk_ups_fetch (s : State) (k : Nat) (c : ChunkState) : (s.setChunk k c).ups.fetch = s.ups.fetch :=
    rfl
@[simp] theorem State.setChunk_ups_serves (s : State) (k : Nat) (c : ChunkState) : (s.setChunk k c).ups.serves = s.ups.serves :=
    rfl
@[simp] theorem State.setChunk_ups_serving (s : State) (k : Nat) (c : ChunkState) : (s.setChunk k c).ups.serving = s.ups.serving :=
    rfl
@[simp] theorem State.setChunk_ups_serveGap (s : State) (k : Nat) (c : ChunkState) : (s.setChunk k c).ups.serveGap = s.ups.serveGap :=
    rfl
@[simp] theorem State.setChunk_ups_lastServe (s : State) (k : Nat) (c : ChunkState) : (s.setChunk k c).ups.lastServe = s.ups.lastServe :=
    rfl
@[simp] theorem State.setChunk_ups_cleanServes (s : State) (k : Nat) (c : ChunkState) : (s.setChunk k c).ups.cleanServes = s.ups.cleanServes :=
    rfl
@[simp] theorem State.setChunk_ups_window (s : State) (k : Nat) (c : ChunkState) : (s.setChunk k c).ups.window = s.ups.window :=
    rfl
@[simp] theorem State.setChunk_ups_holdLimit (s : State) (k : Nat) (c : ChunkState) : (s.setChunk k c).ups.holdLimit = s.ups.holdLimit :=
    rfl
@[simp] theorem State.setChunk_ups_gapMin (s : State) (k : Nat) (c : ChunkState) : (s.setChunk k c).ups.gapMin = s.ups.gapMin :=
    rfl
@[simp] theorem State.setChunk_ups_holdMinutes (s : State) (k : Nat) (c : ChunkState) : (s.setChunk k c).ups.holdMinutes = s.ups.holdMinutes :=
    rfl
@[simp] theorem State.setChunk_ups_minutes (s : State) (k : Nat) (c : ChunkState) : (s.setChunk k c).ups.minutes = s.ups.minutes :=
    rfl
@[simp] theorem State.setChunk_ups_messages (s : State) (k : Nat) (c : ChunkState) : (s.setChunk k c).ups.messages = s.ups.messages :=
    rfl

/-! ## `State.setBuf` -/

@[simp] theorem State.setBuf_pending (s : State) (b : Fin 4) (x : Option Buf) : (s.setBuf b x).pending = s.pending :=
    rfl
@[simp] theorem State.setBuf_exu (s : State) (b : Fin 4) (x : Option Buf) : (s.setBuf b x).exu = s.exu := rfl
@[simp] theorem State.setBuf_frp (s : State) (b : Fin 4) (x : Option Buf) : (s.setBuf b x).frp = s.frp := rfl
@[simp] theorem State.setBuf_flc (s : State) (b : Fin 4) (x : Option Buf) : (s.setBuf b x).flc = s.flc := rfl
@[simp] theorem State.setBuf_stt (s : State) (b : Fin 4) (x : Option Buf) : (s.setBuf b x).stt = s.stt := rfl
@[simp] theorem State.setBuf_sck (s : State) (b : Fin 4) (x : Option Buf) : (s.setBuf b x).sck = s.sck := rfl
@[simp] theorem State.setBuf_pfe (s : State) (b : Fin 4) (x : Option Buf) : (s.setBuf b x).pfe = s.pfe := rfl
@[simp] theorem State.setBuf_mlc (s : State) (b : Fin 4) (x : Option Buf) : (s.setBuf b x).mlc = s.mlc := rfl
@[simp] theorem State.setBuf_hoc (s : State) (b : Fin 4) (x : Option Buf) : (s.setBuf b x).hoc = s.hoc := rfl
@[simp] theorem State.setBuf_fls (s : State) (b : Fin 4) (x : Option Buf) : (s.setBuf b x).fls = s.fls := rfl
@[simp] theorem State.setBuf_ups_state (s : State) (b : Fin 4) (x : Option Buf) : (s.setBuf b x).ups.state = s.ups.state :=
    rfl
@[simp] theorem State.setBuf_ups_manifest (s : State) (b : Fin 4) (x : Option Buf) : (s.setBuf b x).ups.manifest = s.ups.manifest :=
    rfl
@[simp] theorem State.setBuf_ups_map (s : State) (b : Fin 4) (x : Option Buf) : (s.setBuf b x).ups.map = s.ups.map :=
    rfl
@[simp] theorem State.setBuf_ups_bufs (s : State) (b : Fin 4) (x : Option Buf) :
    (s.setBuf b x).ups.bufs = put s.ups.bufs b x := rfl
@[simp] theorem State.setBuf_ups_work (s : State) (b : Fin 4) (x : Option Buf) : (s.setBuf b x).ups.work = s.ups.work :=
    rfl
@[simp] theorem State.setBuf_ups_fetch (s : State) (b : Fin 4) (x : Option Buf) : (s.setBuf b x).ups.fetch = s.ups.fetch :=
    rfl
@[simp] theorem State.setBuf_ups_serves (s : State) (b : Fin 4) (x : Option Buf) : (s.setBuf b x).ups.serves = s.ups.serves :=
    rfl
@[simp] theorem State.setBuf_ups_serving (s : State) (b : Fin 4) (x : Option Buf) : (s.setBuf b x).ups.serving = s.ups.serving :=
    rfl
@[simp] theorem State.setBuf_ups_serveGap (s : State) (b : Fin 4) (x : Option Buf) : (s.setBuf b x).ups.serveGap = s.ups.serveGap :=
    rfl
@[simp] theorem State.setBuf_ups_lastServe (s : State) (b : Fin 4) (x : Option Buf) : (s.setBuf b x).ups.lastServe = s.ups.lastServe :=
    rfl
@[simp] theorem State.setBuf_ups_cleanServes (s : State) (b : Fin 4) (x : Option Buf) : (s.setBuf b x).ups.cleanServes = s.ups.cleanServes :=
    rfl
@[simp] theorem State.setBuf_ups_window (s : State) (b : Fin 4) (x : Option Buf) : (s.setBuf b x).ups.window = s.ups.window :=
    rfl
@[simp] theorem State.setBuf_ups_holdLimit (s : State) (b : Fin 4) (x : Option Buf) : (s.setBuf b x).ups.holdLimit = s.ups.holdLimit :=
    rfl
@[simp] theorem State.setBuf_ups_gapMin (s : State) (b : Fin 4) (x : Option Buf) : (s.setBuf b x).ups.gapMin = s.ups.gapMin :=
    rfl
@[simp] theorem State.setBuf_ups_holdMinutes (s : State) (b : Fin 4) (x : Option Buf) : (s.setBuf b x).ups.holdMinutes = s.ups.holdMinutes :=
    rfl
@[simp] theorem State.setBuf_ups_minutes (s : State) (b : Fin 4) (x : Option Buf) : (s.setBuf b x).ups.minutes = s.ups.minutes :=
    rfl
@[simp] theorem State.setBuf_ups_messages (s : State) (b : Fin 4) (x : Option Buf) : (s.setBuf b x).ups.messages = s.ups.messages :=
    rfl

/-! ## `State.setFetch` -/

@[simp] theorem State.setFetch_pending (s : State) (f : Option Fetch) : (s.setFetch f).pending = s.pending := rfl
@[simp] theorem State.setFetch_exu (s : State) (f : Option Fetch) : (s.setFetch f).exu = s.exu := rfl
@[simp] theorem State.setFetch_frp (s : State) (f : Option Fetch) : (s.setFetch f).frp = s.frp := rfl
@[simp] theorem State.setFetch_flc (s : State) (f : Option Fetch) : (s.setFetch f).flc = s.flc := rfl
@[simp] theorem State.setFetch_stt (s : State) (f : Option Fetch) : (s.setFetch f).stt = s.stt := rfl
@[simp] theorem State.setFetch_sck (s : State) (f : Option Fetch) : (s.setFetch f).sck = s.sck := rfl
@[simp] theorem State.setFetch_pfe (s : State) (f : Option Fetch) : (s.setFetch f).pfe = s.pfe := rfl
@[simp] theorem State.setFetch_mlc (s : State) (f : Option Fetch) : (s.setFetch f).mlc = s.mlc := rfl
@[simp] theorem State.setFetch_hoc (s : State) (f : Option Fetch) : (s.setFetch f).hoc = s.hoc := rfl
@[simp] theorem State.setFetch_fls (s : State) (f : Option Fetch) : (s.setFetch f).fls = s.fls := rfl
@[simp] theorem State.setFetch_ups_state (s : State) (f : Option Fetch) : (s.setFetch f).ups.state = s.ups.state :=
    rfl
@[simp] theorem State.setFetch_ups_manifest (s : State) (f : Option Fetch) : (s.setFetch f).ups.manifest = s.ups.manifest :=
    rfl
@[simp] theorem State.setFetch_ups_map (s : State) (f : Option Fetch) : (s.setFetch f).ups.map = s.ups.map := rfl
@[simp] theorem State.setFetch_ups_bufs (s : State) (f : Option Fetch) : (s.setFetch f).ups.bufs = s.ups.bufs := rfl
@[simp] theorem State.setFetch_ups_work (s : State) (f : Option Fetch) : (s.setFetch f).ups.work = s.ups.work := rfl
@[simp] theorem State.setFetch_ups_fetch (s : State) (f : Option Fetch) :
    (s.setFetch f).ups.fetch = f := rfl
@[simp] theorem State.setFetch_ups_serves (s : State) (f : Option Fetch) : (s.setFetch f).ups.serves = s.ups.serves :=
    rfl
@[simp] theorem State.setFetch_ups_serving (s : State) (f : Option Fetch) : (s.setFetch f).ups.serving = s.ups.serving :=
    rfl
@[simp] theorem State.setFetch_ups_serveGap (s : State) (f : Option Fetch) : (s.setFetch f).ups.serveGap = s.ups.serveGap :=
    rfl
@[simp] theorem State.setFetch_ups_lastServe (s : State) (f : Option Fetch) : (s.setFetch f).ups.lastServe = s.ups.lastServe :=
    rfl
@[simp] theorem State.setFetch_ups_cleanServes (s : State) (f : Option Fetch) : (s.setFetch f).ups.cleanServes = s.ups.cleanServes :=
    rfl
@[simp] theorem State.setFetch_ups_window (s : State) (f : Option Fetch) : (s.setFetch f).ups.window = s.ups.window :=
    rfl
@[simp] theorem State.setFetch_ups_holdLimit (s : State) (f : Option Fetch) : (s.setFetch f).ups.holdLimit = s.ups.holdLimit :=
    rfl
@[simp] theorem State.setFetch_ups_gapMin (s : State) (f : Option Fetch) : (s.setFetch f).ups.gapMin = s.ups.gapMin :=
    rfl
@[simp] theorem State.setFetch_ups_holdMinutes (s : State) (f : Option Fetch) : (s.setFetch f).ups.holdMinutes = s.ups.holdMinutes :=
    rfl
@[simp] theorem State.setFetch_ups_minutes (s : State) (f : Option Fetch) : (s.setFetch f).ups.minutes = s.ups.minutes :=
    rfl
@[simp] theorem State.setFetch_ups_messages (s : State) (f : Option Fetch) : (s.setFetch f).ups.messages = s.ups.messages :=
    rfl

/-! ## `State.setBoot` -/

@[simp] theorem State.setBoot_pending (s : State) (b : Boot) : (s.setBoot b).pending = s.pending := rfl
@[simp] theorem State.setBoot_exu (s : State) (b : Boot) : (s.setBoot b).exu = s.exu := rfl
@[simp] theorem State.setBoot_frp (s : State) (b : Boot) : (s.setBoot b).frp = s.frp := rfl
@[simp] theorem State.setBoot_flc (s : State) (b : Boot) : (s.setBoot b).flc = s.flc := rfl
@[simp] theorem State.setBoot_stt (s : State) (b : Boot) : (s.setBoot b).stt = s.stt := rfl
@[simp] theorem State.setBoot_sck (s : State) (b : Boot) : (s.setBoot b).sck = s.sck := rfl
@[simp] theorem State.setBoot_pfe (s : State) (b : Boot) : (s.setBoot b).pfe = s.pfe := rfl
@[simp] theorem State.setBoot_mlc (s : State) (b : Boot) : (s.setBoot b).mlc = s.mlc := rfl
@[simp] theorem State.setBoot_hoc (s : State) (b : Boot) : (s.setBoot b).hoc = s.hoc := rfl
@[simp] theorem State.setBoot_ups (s : State) (b : Boot) : (s.setBoot b).ups = s.ups := rfl
@[simp] theorem State.setBoot_fls_op (s : State) (b : Boot) : (s.setBoot b).fls.op = s.fls.op := rfl
@[simp] theorem State.setBoot_fls_waiting (s : State) (b : Boot) : (s.setBoot b).fls.waiting = s.fls.waiting := rfl
@[simp] theorem State.setBoot_fls_stalled (s : State) (b : Boot) : (s.setBoot b).fls.stalled = s.fls.stalled := rfl
@[simp] theorem State.setBoot_fls_boot (s : State) (b : Boot) :
    (s.setBoot b).fls.boot = b := rfl
@[simp] theorem State.setBoot_fls_slot (s : State) (b : Boot) : (s.setBoot b).fls.slot = s.fls.slot := rfl
@[simp] theorem State.setBoot_fls_activeManifest (s : State) (b : Boot) : (s.setBoot b).fls.activeManifest = s.fls.activeManifest :=
    rfl
@[simp] theorem State.setBoot_fls_readWork (s : State) (b : Boot) : (s.setBoot b).fls.readWork = s.fls.readWork := rfl

/-! ## `State.dropFlash` -/

@[simp] theorem State.dropFlash_pending (s : State) (d : FlashOwner → Bool) : (s.dropFlash d).pending = s.pending :=
    rfl
@[simp] theorem State.dropFlash_exu (s : State) (d : FlashOwner → Bool) : (s.dropFlash d).exu = s.exu := rfl
@[simp] theorem State.dropFlash_frp (s : State) (d : FlashOwner → Bool) : (s.dropFlash d).frp = s.frp := rfl
@[simp] theorem State.dropFlash_flc (s : State) (d : FlashOwner → Bool) : (s.dropFlash d).flc = s.flc := rfl
@[simp] theorem State.dropFlash_stt (s : State) (d : FlashOwner → Bool) : (s.dropFlash d).stt = s.stt := rfl
@[simp] theorem State.dropFlash_sck (s : State) (d : FlashOwner → Bool) : (s.dropFlash d).sck = s.sck := rfl
@[simp] theorem State.dropFlash_pfe (s : State) (d : FlashOwner → Bool) : (s.dropFlash d).pfe = s.pfe := rfl
@[simp] theorem State.dropFlash_mlc (s : State) (d : FlashOwner → Bool) : (s.dropFlash d).mlc = s.mlc := rfl
@[simp] theorem State.dropFlash_hoc (s : State) (d : FlashOwner → Bool) : (s.dropFlash d).hoc = s.hoc := rfl
@[simp] theorem State.dropFlash_ups (s : State) (d : FlashOwner → Bool) : (s.dropFlash d).ups = s.ups := rfl
@[simp] theorem State.dropFlash_fls_stalled (s : State) (d : FlashOwner → Bool) : (s.dropFlash d).fls.stalled = s.fls.stalled :=
    rfl
@[simp] theorem State.dropFlash_fls_boot (s : State) (d : FlashOwner → Bool) : (s.dropFlash d).fls.boot = s.fls.boot :=
    rfl
@[simp] theorem State.dropFlash_fls_slot (s : State) (d : FlashOwner → Bool) : (s.dropFlash d).fls.slot = s.fls.slot :=
    rfl
@[simp] theorem State.dropFlash_fls_activeManifest (s : State) (d : FlashOwner → Bool) : (s.dropFlash d).fls.activeManifest = s.fls.activeManifest :=
    rfl
@[simp] theorem State.dropFlash_fls_readWork (s : State) (d : FlashOwner → Bool) : (s.dropFlash d).fls.readWork = s.fls.readWork :=
    rfl

/-! ## The homes of ports, records and profiles -/

@[simp] theorem State.setPort_port_same (s : State) (p : PortId) (x : Port) : (s.setPort p x).port p = x := by
  simp [State.port, State.setPort]

theorem State.setPort_port_ne (s : State) {p q : PortId} (x : Port) (h : q ≠ p) : (s.setPort p x).port q = s.port q := by
  simp [State.port, State.setPort, get_put_ne _ _ fun e => h (portIx_injective e)]

theorem State.setPort_port (s : State) (p q : PortId) (x : Port) :
    (s.setPort p x).port q = if q = p then x else s.port q := by
  split
  · next h => rw [h, State.setPort_port_same]
  · next h => exact State.setPort_port_ne s x h

theorem State.setPort_self (s : State) (p : PortId) : s.setPort p (s.port p) = s := by
  simp [State.setPort, State.port, put_get_self]

@[simp] theorem State.setSta_sta_same (s : State) (i : StaIx) (r : Station) : (s.setSta i r).sta i = r := by
  simp [State.sta, State.setSta]

theorem State.setSta_sta_ne (s : State) {i q : StaIx} (r : Station) (h : q ≠ i) : (s.setSta i r).sta q = s.sta q := by
  simp [State.sta, State.setSta, get_put_ne _ _ h]

theorem State.setSta_sta (s : State) (i q : StaIx) (r : Station) :
    (s.setSta i r).sta q = if q = i then r else s.sta q := by
  split
  · next h => rw [h, State.setSta_sta_same]
  · next h => exact State.setSta_sta_ne s r h

theorem State.setSta_self (s : State) (i : StaIx) : s.setSta i (s.sta i) = s := by
  simp [State.setSta, State.sta, put_get_self]

@[simp] theorem State.setProfile_profile_same (s : State) (p : ProfIx) (x : Profile) : (s.setProfile p x).profile p = x := by
  simp [State.profile, State.setProfile]

theorem State.setProfile_profile_ne (s : State) {p q : ProfIx} (x : Profile) (h : q ≠ p) : (s.setProfile p x).profile q = s.profile q := by
  simp [State.profile, State.setProfile, get_put_ne _ _ h]

theorem State.setProfile_profile (s : State) (p q : ProfIx) (x : Profile) :
    (s.setProfile p x).profile q = if q = p then x else s.profile q := by
  split
  · next h => rw [h, State.setProfile_profile_same]
  · next h => exact State.setProfile_profile_ne s x h

theorem State.setProfile_self (s : State) (p : ProfIx) : s.setProfile p (s.profile p) = s := by
  simp [State.setProfile, State.profile, put_get_self]

@[simp] theorem State.takeBuffer_port (s : State) (at_ : PortId) : s.takeBuffer.port at_ = s.port at_ := rfl
@[simp] theorem State.returnBuffers_port (s : State) (n : Nat) (at_ : PortId) : (s.returnBuffers n).port at_ = s.port at_ :=
    rfl
@[simp] theorem State.dropAddresses_port (s : State) (d : AddrEntry → Bool) (at_ : PortId) : (s.dropAddresses d).port at_ = s.port at_ :=
    rfl
@[simp] theorem State.setSta_port (s : State) (i : StaIx) (r : Station) (at_ : PortId) : (s.setSta i r).port at_ = s.port at_ :=
    rfl
@[simp] theorem State.notice_port (s : State) (n : Notice) (at_ : PortId) : (s.notice n).port at_ = s.port at_ := rfl
@[simp] theorem State.setProfile_port (s : State) (p : ProfIx) (x : Profile) (at_ : PortId) : (s.setProfile p x).port at_ = s.port at_ :=
    rfl
@[simp] theorem State.trigger_port (s : State) (t : Trigger) (at_ : PortId) : (s.trigger t).port at_ = s.port at_ :=
    rfl
@[simp] theorem State.triggerFor_port (s : State) (p : ProfIx) (c : Cause) (at_ : PortId) : (s.triggerFor p c).port at_ = s.port at_ :=
    rfl
@[simp] theorem State.triggerAll_port (s : State) (c : Cause) (d : Option ClockEvent) (at_ : PortId) : (s.triggerAll c d).port at_ = s.port at_ :=
    rfl
@[simp] theorem State.giveReport_port (s : State) (k : ReportKind) (n : Nat) (b : List Byte) (at_ : PortId) : (s.giveReport k n b).port at_ = s.port at_ :=
    rfl
@[simp] theorem State.setEvent_port (s : State) (e : Event) (at_ : PortId) : (s.setEvent e).port at_ = s.port at_ :=
    rfl
@[simp] theorem State.updOrder_port (s : State) (id : Nat) (f : Order → Order) (at_ : PortId) : (s.updOrder id f).port at_ = s.port at_ :=
    rfl
@[simp] theorem State.mark_port (s : State) (id : Nat) (p : Progress) (at_ : PortId) : (s.mark id p).port at_ = s.port at_ :=
    rfl
@[simp] theorem State.finish_port (s : State) (id : Nat) (c : Status) (d : Byte) (l : List Byte) (at_ : PortId) : (s.finish id c d l).port at_ = s.port at_ :=
    rfl
@[simp] theorem State.refuse_port (s : State) (o : Order) (c : Status) (at_ : PortId) : (s.refuse o c).port at_ = s.port at_ :=
    rfl
@[simp] theorem State.accept_port (s : State) (o : Order) (l : List Byte) (at_ : PortId) : (s.accept o l).port at_ = s.port at_ :=
    rfl
@[simp] theorem State.dropBulk_port (s : State) (id : Nat) (at_ : PortId) : (s.dropBulk id).port at_ = s.port at_ :=
    rfl
@[simp] theorem State.setFlowWay_port (s : State) (k : Fin 256) (w : Fin 4) (f : Option Flow) (at_ : PortId) : (s.setFlowWay k w f).port at_ = s.port at_ :=
    rfl
@[simp] theorem State.placeFlow_port (s : State) (f : Flow) (at_ : PortId) : (s.placeFlow f).port at_ = s.port at_ :=
    rfl
@[simp] theorem State.dropFlows_port (s : State) (d : Flow → Bool) (at_ : PortId) : (s.dropFlows d).port at_ = s.port at_ :=
    rfl
@[simp] theorem State.putPeer_port (s : State) (k : Fin 7) (q : Option Peer) (at_ : PortId) : (s.putPeer k q).port at_ = s.port at_ :=
    rfl
@[simp] theorem State.setListen_port (s : State) (l : List Listen) (at_ : PortId) : (s.setListen l).port at_ = s.port at_ :=
    rfl
@[simp] theorem State.setWork_port (s : State) (w : UpsWork) (at_ : PortId) : (s.setWork w).port at_ = s.port at_ :=
    rfl
@[simp] theorem State.setChunk_port (s : State) (k : Nat) (c : ChunkState) (at_ : PortId) : (s.setChunk k c).port at_ = s.port at_ :=
    rfl
@[simp] theorem State.setBuf_port (s : State) (b : Fin 4) (x : Option Buf) (at_ : PortId) : (s.setBuf b x).port at_ = s.port at_ :=
    rfl
@[simp] theorem State.setFetch_port (s : State) (f : Option Fetch) (at_ : PortId) : (s.setFetch f).port at_ = s.port at_ :=
    rfl
@[simp] theorem State.setBoot_port (s : State) (b : Boot) (at_ : PortId) : (s.setBoot b).port at_ = s.port at_ := rfl
@[simp] theorem State.dropFlash_port (s : State) (d : FlashOwner → Bool) (at_ : PortId) : (s.dropFlash d).port at_ = s.port at_ :=
    rfl
@[simp] theorem State.setPort_sta (s : State) (p : PortId) (x : Port) (j : StaIx) : (s.setPort p x).sta j = s.sta j :=
    rfl
@[simp] theorem State.takeBuffer_sta (s : State) (j : StaIx) : s.takeBuffer.sta j = s.sta j := rfl
@[simp] theorem State.returnBuffers_sta (s : State) (n : Nat) (j : StaIx) : (s.returnBuffers n).sta j = s.sta j := rfl
@[simp] theorem State.count_sta (s : State) (p : PortId) (c : TClass) (k : Counter) (j : StaIx) : (s.count p c k).sta j = s.sta j :=
    rfl
@[simp] theorem State.setIngress_sta (s : State) (p : PortId) (x : Option Ingress) (j : StaIx) : (s.setIngress p x).sta j = s.sta j :=
    rfl
@[simp] theorem State.purgePort_sta (s : State) (p : PortId) (d : Copy → Bool) (j : StaIx) : (s.purgePort p d).sta j = s.sta j :=
    rfl
@[simp] theorem State.dropAddresses_sta (s : State) (d : AddrEntry → Bool) (j : StaIx) : (s.dropAddresses d).sta j = s.sta j :=
    rfl
@[simp] theorem State.notice_sta (s : State) (n : Notice) (j : StaIx) : (s.notice n).sta j = s.sta j := rfl
@[simp] theorem State.setProfile_sta (s : State) (p : ProfIx) (x : Profile) (j : StaIx) : (s.setProfile p x).sta j = s.sta j :=
    rfl
@[simp] theorem State.trigger_sta (s : State) (t : Trigger) (j : StaIx) : (s.trigger t).sta j = s.sta j := rfl
@[simp] theorem State.triggerFor_sta (s : State) (p : ProfIx) (c : Cause) (j : StaIx) : (s.triggerFor p c).sta j = s.sta j :=
    rfl
@[simp] theorem State.triggerAll_sta (s : State) (c : Cause) (d : Option ClockEvent) (j : StaIx) : (s.triggerAll c d).sta j = s.sta j :=
    rfl
@[simp] theorem State.giveReport_sta (s : State) (k : ReportKind) (n : Nat) (b : List Byte) (j : StaIx) : (s.giveReport k n b).sta j = s.sta j :=
    rfl
@[simp] theorem State.setEvent_sta (s : State) (e : Event) (j : StaIx) : (s.setEvent e).sta j = s.sta j := rfl
@[simp] theorem State.updOrder_sta (s : State) (id : Nat) (f : Order → Order) (j : StaIx) : (s.updOrder id f).sta j = s.sta j :=
    rfl
@[simp] theorem State.mark_sta (s : State) (id : Nat) (p : Progress) (j : StaIx) : (s.mark id p).sta j = s.sta j :=
    rfl
@[simp] theorem State.finish_sta (s : State) (id : Nat) (c : Status) (d : Byte) (l : List Byte) (j : StaIx) : (s.finish id c d l).sta j = s.sta j :=
    rfl
@[simp] theorem State.refuse_sta (s : State) (o : Order) (c : Status) (j : StaIx) : (s.refuse o c).sta j = s.sta j :=
    rfl
@[simp] theorem State.accept_sta (s : State) (o : Order) (l : List Byte) (j : StaIx) : (s.accept o l).sta j = s.sta j :=
    rfl
@[simp] theorem State.dropBulk_sta (s : State) (id : Nat) (j : StaIx) : (s.dropBulk id).sta j = s.sta j := rfl
@[simp] theorem State.setFlowWay_sta (s : State) (k : Fin 256) (w : Fin 4) (f : Option Flow) (j : StaIx) : (s.setFlowWay k w f).sta j = s.sta j :=
    rfl
@[simp] theorem State.placeFlow_sta (s : State) (f : Flow) (j : StaIx) : (s.placeFlow f).sta j = s.sta j := rfl
@[simp] theorem State.dropFlows_sta (s : State) (d : Flow → Bool) (j : StaIx) : (s.dropFlows d).sta j = s.sta j := rfl
@[simp] theorem State.putPeer_sta (s : State) (k : Fin 7) (q : Option Peer) (j : StaIx) : (s.putPeer k q).sta j = s.sta j :=
    rfl
@[simp] theorem State.setListen_sta (s : State) (l : List Listen) (j : StaIx) : (s.setListen l).sta j = s.sta j := rfl
@[simp] theorem State.setWork_sta (s : State) (w : UpsWork) (j : StaIx) : (s.setWork w).sta j = s.sta j := rfl
@[simp] theorem State.setChunk_sta (s : State) (k : Nat) (c : ChunkState) (j : StaIx) : (s.setChunk k c).sta j = s.sta j :=
    rfl
@[simp] theorem State.setBuf_sta (s : State) (b : Fin 4) (x : Option Buf) (j : StaIx) : (s.setBuf b x).sta j = s.sta j :=
    rfl
@[simp] theorem State.setFetch_sta (s : State) (f : Option Fetch) (j : StaIx) : (s.setFetch f).sta j = s.sta j := rfl
@[simp] theorem State.setBoot_sta (s : State) (b : Boot) (j : StaIx) : (s.setBoot b).sta j = s.sta j := rfl
@[simp] theorem State.dropFlash_sta (s : State) (d : FlashOwner → Bool) (j : StaIx) : (s.dropFlash d).sta j = s.sta j :=
    rfl
@[simp] theorem State.setPort_profile (s : State) (p : PortId) (x : Port) (p' : ProfIx) : (s.setPort p x).profile p' = s.profile p' :=
    rfl
@[simp] theorem State.takeBuffer_profile (s : State) (p' : ProfIx) : s.takeBuffer.profile p' = s.profile p' := rfl
@[simp] theorem State.returnBuffers_profile (s : State) (n : Nat) (p' : ProfIx) : (s.returnBuffers n).profile p' = s.profile p' :=
    rfl
@[simp] theorem State.count_profile (s : State) (p : PortId) (c : TClass) (k : Counter) (p' : ProfIx) : (s.count p c k).profile p' = s.profile p' :=
    rfl
@[simp] theorem State.setIngress_profile (s : State) (p : PortId) (x : Option Ingress) (p' : ProfIx) : (s.setIngress p x).profile p' = s.profile p' :=
    rfl
@[simp] theorem State.purgePort_profile (s : State) (p : PortId) (d : Copy → Bool) (p' : ProfIx) : (s.purgePort p d).profile p' = s.profile p' :=
    rfl
@[simp] theorem State.dropAddresses_profile (s : State) (d : AddrEntry → Bool) (p' : ProfIx) : (s.dropAddresses d).profile p' = s.profile p' :=
    rfl
@[simp] theorem State.setSta_profile (s : State) (i : StaIx) (r : Station) (p' : ProfIx) : (s.setSta i r).profile p' = s.profile p' :=
    rfl
@[simp] theorem State.notice_profile (s : State) (n : Notice) (p' : ProfIx) : (s.notice n).profile p' = s.profile p' :=
    rfl
@[simp] theorem State.trigger_profile (s : State) (t : Trigger) (p' : ProfIx) : (s.trigger t).profile p' = s.profile p' :=
    rfl
@[simp] theorem State.triggerFor_profile (s : State) (p : ProfIx) (c : Cause) (p' : ProfIx) : (s.triggerFor p c).profile p' = s.profile p' :=
    rfl
@[simp] theorem State.triggerAll_profile (s : State) (c : Cause) (d : Option ClockEvent) (p' : ProfIx) : (s.triggerAll c d).profile p' = s.profile p' :=
    rfl
@[simp] theorem State.giveReport_profile (s : State) (k : ReportKind) (n : Nat) (b : List Byte) (p' : ProfIx) : (s.giveReport k n b).profile p' = s.profile p' :=
    rfl
@[simp] theorem State.setEvent_profile (s : State) (e : Event) (p' : ProfIx) : (s.setEvent e).profile p' = s.profile p' :=
    rfl
@[simp] theorem State.updOrder_profile (s : State) (id : Nat) (f : Order → Order) (p' : ProfIx) : (s.updOrder id f).profile p' = s.profile p' :=
    rfl
@[simp] theorem State.mark_profile (s : State) (id : Nat) (p : Progress) (p' : ProfIx) : (s.mark id p).profile p' = s.profile p' :=
    rfl
@[simp] theorem State.finish_profile (s : State) (id : Nat) (c : Status) (d : Byte) (l : List Byte) (p' : ProfIx) : (s.finish id c d l).profile p' = s.profile p' :=
    rfl
@[simp] theorem State.refuse_profile (s : State) (o : Order) (c : Status) (p' : ProfIx) : (s.refuse o c).profile p' = s.profile p' :=
    rfl
@[simp] theorem State.accept_profile (s : State) (o : Order) (l : List Byte) (p' : ProfIx) : (s.accept o l).profile p' = s.profile p' :=
    rfl
@[simp] theorem State.dropBulk_profile (s : State) (id : Nat) (p' : ProfIx) : (s.dropBulk id).profile p' = s.profile p' :=
    rfl
@[simp] theorem State.setFlowWay_profile (s : State) (k : Fin 256) (w : Fin 4) (f : Option Flow) (p' : ProfIx) : (s.setFlowWay k w f).profile p' = s.profile p' :=
    rfl
@[simp] theorem State.placeFlow_profile (s : State) (f : Flow) (p' : ProfIx) : (s.placeFlow f).profile p' = s.profile p' :=
    rfl
@[simp] theorem State.dropFlows_profile (s : State) (d : Flow → Bool) (p' : ProfIx) : (s.dropFlows d).profile p' = s.profile p' :=
    rfl
@[simp] theorem State.putPeer_profile (s : State) (k : Fin 7) (q : Option Peer) (p' : ProfIx) : (s.putPeer k q).profile p' = s.profile p' :=
    rfl
@[simp] theorem State.setListen_profile (s : State) (l : List Listen) (p' : ProfIx) : (s.setListen l).profile p' = s.profile p' :=
    rfl
@[simp] theorem State.setWork_profile (s : State) (w : UpsWork) (p' : ProfIx) : (s.setWork w).profile p' = s.profile p' :=
    rfl
@[simp] theorem State.setChunk_profile (s : State) (k : Nat) (c : ChunkState) (p' : ProfIx) : (s.setChunk k c).profile p' = s.profile p' :=
    rfl
@[simp] theorem State.setBuf_profile (s : State) (b : Fin 4) (x : Option Buf) (p' : ProfIx) : (s.setBuf b x).profile p' = s.profile p' :=
    rfl
@[simp] theorem State.setFetch_profile (s : State) (f : Option Fetch) (p' : ProfIx) : (s.setFetch f).profile p' = s.profile p' :=
    rfl
@[simp] theorem State.setBoot_profile (s : State) (b : Boot) (p' : ProfIx) : (s.setBoot b).profile p' = s.profile p' :=
    rfl
@[simp] theorem State.dropFlash_profile (s : State) (d : FlashOwner → Bool) (p' : ProfIx) : (s.dropFlash d).profile p' = s.profile p' :=
    rfl

end Sys2Proof.Machine
end

