-- ==== Sys2Proof/Laws/Ops.lean ====
section
/-!
SUPPORT. What each shared operation can do, said once: a proof cites these instead of unfolding the operation. Where an
operation has several outcomes, the lemma says which fields of the state any of them may have moved.
-/

namespace Sys2Proof.Machine

open Sys2Proof

/-! ## The bus-master arbiter (R23) -/

/-- Starting an access moves the bus and, for an answer's state write, the cursor's mark. -/
theorem State.startAccess_spec (s : State) (a : Access) : ∃ c b,
    s.startAccess a = { s with exu := { s.exu with cursor := c, bus := some (b, s.sck.us) } } := by
  unfold State.startAccess
  repeat' split
  all_goals exact ⟨_, _, rfl⟩

/-- Arbitration moves the bus, the accesses that wait and the cursor's mark. -/
theorem State.arbitrate_spec (s : State) : ∃ c b w,
    s.arbitrate = { s with exu := { s.exu with cursor := c, bus := b, busWait := w } } := by
  unfold State.arbitrate
  split
  · exact ⟨_, _, _, rfl⟩
  · split
    · exact ⟨_, _, _, rfl⟩
    · next a rest _ =>
      obtain ⟨c, b, h⟩ := State.startAccess_spec { s with exu := { s.exu with busWait := rest } } a
      exact ⟨c, some (b, s.sck.us), rest, h⟩

/-- A request moves what arbitration moves. -/
theorem State.request_spec (s : State) (l : List Access) : ∃ c b w,
    s.request l = { s with exu := { s.exu with cursor := c, bus := b, busWait := w } } := by
  obtain ⟨c, b, w, h⟩ := State.arbitrate_spec { s with exu := { s.exu with busWait := s.exu.busWait ++ l } }
  exact ⟨c, b, w, h⟩

theorem State.bulkRead_spec (s : State) (o : Order) (offset len : Nat) : ∃ c b w,
    s.bulkRead o offset len = { s with exu := { s.exu with cursor := c, bus := b, busWait := w } } :=
  State.request_spec s _

theorem State.bulkWrite_spec (s : State) (o : Order) (offset : Nat) (data : List Byte) : ∃ c b w,
    s.bulkWrite o offset data = { s with exu := { s.exu with cursor := c, bus := b, busWait := w } } :=
  State.request_spec s _

/-- The end of an access frees the bus for the next one. -/
theorem State.busFree_spec (s : State) : ∃ c b w,
    s.busFree = { s with exu := { s.exu with cursor := c, bus := b, busWait := w } } := by
  obtain ⟨c, b, w, h⟩ := State.arbitrate_spec { s with exu := { s.exu with bus := none } }
  exact ⟨c, b, w, h⟩

/-- With the bus taken, a request only waits. -/
theorem State.request_of_busy (s : State) (l : List Access) {x : Access × Us} (h : s.exu.bus = some x) :
    s.request l = { s with exu := { s.exu with busWait := s.exu.busWait ++ l } } := by
  simp only [State.request, State.arbitrate, h]

/-! ## Looks, placements and faults (R9, R10, R20, R21, R24) -/

/-- A cause of a look moves the look and the look-pending flag. -/
theorem State.causeLook_spec (s : State) : ∃ l p,
    s.causeLook = { s with exu := { s.exu with look := l, lookPending := p } } := by
  unfold State.causeLook
  repeat' split
  all_goals exact ⟨_, _, rfl⟩

/-- The end of a look moves the look and the look-pending flag. -/
theorem State.endLook_spec (s : State) : ∃ l p,
    s.endLook = { s with exu := { s.exu with look := l, lookPending := p } } := by
  unfold State.endLook
  split
  all_goals exact ⟨_, _, rfl⟩

/-- The order-chain part of a look moves the look and the bus. -/
theorem State.lookChain_spec (s : State) : ∃ l p c b w,
    s.lookChain = { s with exu := { s.exu with look := l, lookPending := p, cursor := c, bus := b, busWait := w } } := by
  unfold State.lookChain
  split
  · obtain ⟨l, p, h⟩ := s.endLook_spec
    exact ⟨l, p, _, _, _, h⟩
  · obtain ⟨c, b, w, h⟩ := State.request_spec { s with exu := { s.exu with look := .pointer } }
      (readAccesses .order s.exu.area (match s.exu.cursor with
        | .block c _ => c
        | .anchor | .nowhere => 4) 4 .lookPointer)
    exact ⟨_, _, c, b, w, h⟩

/-- The end of a drain moves what the look it goes on with moves. -/
theorem State.drainEnd_spec (s : State) : ∃ l p c b w,
    s.drainEnd = { s with exu := { s.exu with look := l, lookPending := p, cursor := c, bus := b, busWait := w } } := by
  unfold State.drainEnd
  split
  · exact s.lookChain_spec
  · exact ⟨_, _, _, _, _, rfl⟩

/-- An area fault sets the event and, in RUNNING, ends the look, the placement, the scan timer and all waiting accesses
but the bulk ones. -/
theorem State.areaFault_spec (s : State) (f : FaultCause) :
    (s.exu.engine = .running → s.areaFault f = s.halt f) ∧
    (s.exu.engine = .halted → s.areaFault f = s.setEvent .areaFault) ∧
    (s.exu.engine = .off ∨ s.exu.engine = .resetting → s.areaFault f = s) := by
  unfold State.areaFault
  refine ⟨fun h => by rw [h], fun h => by rw [h], ?_⟩
  rintro (h | h) <;> rw [h]

/-- A backlog mark moves the event register and the interrupt count. -/
theorem State.backlogUnlessPlacing_spec (s : State) : ∃ e m,
    s.backlogUnlessPlacing = { s with exu := { s.exu with events := e, msi := m } } := by
  unfold State.backlogUnlessPlacing
  split
  · exact ⟨_, _, rfl⟩
  · exact ⟨_, _, rfl⟩

/-- A replaced report keeps the length of the queue. -/
theorem coalesce_length {r : Report} {b : Bool} {l m : List Report} (h : coalesce r b l = some m) :
    m.length = l.length := by
  induction l generalizing b m with
  | nil => cases h
  | cons x xs ih =>
    unfold coalesce at h
    split at h
    · cases h; rfl
    · cases e : coalesce r false xs with
      | none => rw [e] at h; cases h
      | some q => rw [e] at h; cases h; simp [ih e]

/-- A report that reaches the hold queue moves the queue, the placement, the events and the interrupt count; the queue
never grows beyond its 32 places. -/
theorem State.reportReaches_spec (s : State) (r : Report) : ∃ l p e m,
    s.reportReaches r = { s with exu := { s.exu with hold := l, place := p, events := e, msi := m } } ∧
    (s.exu.hold.length ≤ Config.maxHold → l.length ≤ Config.maxHold) := by
  unfold State.reportReaches
  split
  · next l hl =>
    have hlen : l.length = s.exu.hold.length := by
      split at hl
      · exact coalesce_length hl
      · cases hl
    obtain ⟨e, m, h⟩ := State.backlogUnlessPlacing_spec { s with exu := { s.exu with hold := l } }
    exact ⟨l, _, e, m, h, fun hh => by rw [hlen]; exact hh⟩
  · split
    · exact ⟨_, _, _, _, rfl, id⟩
    · next hlt =>
      have hlen : (s.exu.hold ++ [r]).length ≤ Config.maxHold := by
        simp only [List.length_append, List.length_cons, List.length_nil]
        omega
      obtain ⟨e, m, h⟩ := State.backlogUnlessPlacing_spec { s with exu := { s.exu with hold := s.exu.hold ++ [r] } }
      simp only [h]
      split
      · exact ⟨_, _, e, m, rfl, fun _ => hlen⟩
      · exact ⟨_, _, e, m, rfl, fun _ => hlen⟩

/-! ## Orders (R12, R13) -/

/-- The head of a block's list is an order in flight that the block owns and has not ended. -/
theorem State.headOrder_spec {s : State} {b : BlockId} {o : Order} (h : s.headOrder b = some o) :
    o ∈ s.exu.inFlight ∧ o.owner = b ∧ o.ended = false := by
  refine ⟨List.mem_of_find?_eq_some h, ?_⟩
  simpa using List.find?_some h

/-- A fresh head is the head, of the kind asked and not begun. -/
theorem State.freshHead_spec {s : State} {b : BlockId} {k : Byte} {o : Order} (h : s.freshHead b k = some o) :
    s.headOrder b = some o ∧ o.kind = k ∧ o.progress = .fresh := by
  unfold State.freshHead at h
  split at h
  · split at h
    · next e hc =>
      cases h
      exact ⟨e, by simpa using hc⟩
    · cases h
  · cases h

/-- Working an order works the fresh head, and does nothing without one. -/
theorem workOrder_of_some {b : BlockId} {k : Byte} {s : State} {o : Order} (f : Order → State → State)
    (h : s.freshHead b k = some o) : workOrder b k f s = .next (f o s) := by
  simp only [workOrder, h]

theorem workOrder_of_none {b : BlockId} {k : Byte} {s : State} (f : Order → State → State)
    (h : s.freshHead b k = none) : workOrder b k f s = .next s := by
  simp only [workOrder, h]

/-- Changing an entry keeps how many orders are in flight. -/
@[simp] theorem State.updOrder_length (s : State) (id : Nat) (f : Order → Order) :
    (s.updOrder id f).exu.inFlight.length = s.exu.inFlight.length := by simp [State.updOrder]

@[simp] theorem State.finish_length (s : State) (id : Nat) (c : Status) (d : Byte) (l : List Byte) :
    (s.finish id c d l).exu.inFlight.length = s.exu.inFlight.length := by simp [State.finish, State.updOrder]

/-! ## The flash queue (R153) -/

/-- Starting a flash operation moves the operation and the requests that wait. -/
theorem State.startFlash_spec (s : State) : ∃ o w, s.startFlash = { s with fls := { s.fls with op := o, waiting := w } } := by
  unfold State.startFlash
  repeat' split
  all_goals exact ⟨_, _, rfl⟩

theorem State.flashRequest_spec (s : State) (r : FlashOp) : ∃ o w,
    s.flashRequest r = { s with fls := { s.fls with op := o, waiting := w } } := by
  obtain ⟨o, w, h⟩ := State.startFlash_spec { s with fls := { s.fls with waiting := s.fls.waiting ++ [r] } }
  exact ⟨o, w, h⟩

theorem State.opEnds_spec (s : State) : ∃ o w, s.opEnds = { s with fls := { s.fls with op := o, waiting := w } } := by
  obtain ⟨o, w, h⟩ := State.startFlash_spec { s with fls := { s.fls with op := none } }
  exact ⟨o, w, h⟩

/-! ## Triggers (R84, R107, R115) -/

/-- A membership notice moves the triggers that wait. -/
theorem State.membership_spec (s : State) (p : Option ProfIx) : ∃ l,
    s.membership p = { s with pfe := { s.pfe with triggers := l } } := by
  cases p <;> exact ⟨_, rfl⟩

theorem State.spentChange_spec (s : State) (p : Option ProfIx) : ∃ l,
    s.spentChange p = { s with pfe := { s.pfe with triggers := l } } := by
  cases p <;> exact ⟨_, rfl⟩

/-- A trigger is taken exactly as the oldest of its way, with no trigger of an order before it (R115). -/
theorem takeTrigger_eq_some {path : TriggerPath} {l rest : List Trigger} {t : Trigger} :
    takeTrigger path l = some (t, rest) ↔ ∃ before after, l = before ++ t :: after ∧ rest = before ++ after ∧
      t.cause.path = path ∧ ∀ x ∈ before, x.cause.path ≠ path ∧ x.cause.path ≠ .order := by
  induction l generalizing rest with
  | nil => simp [takeTrigger]
  | cons y l ih =>
    simp only [takeTrigger]
    split
    · next hy =>
      constructor
      · rintro ⟨⟩
        exact ⟨[], l, rfl, rfl, hy, by simp⟩
      · rintro ⟨before, after, hl, hr, -, hb⟩
        cases before with
        | nil => cases hl; simp [hr]
        | cons z before => cases hl; exact absurd hy (hb y (by simp)).1
    · next hy =>
      split
      · next ho =>
        refine ⟨nofun, ?_⟩
        rintro ⟨before, after, hl, -, ht, hb⟩
        cases before with
        | nil => cases hl; exact absurd ht hy
        | cons z before => cases hl; exact absurd ho (hb y (by simp)).2
      · next ho =>
        simp only [Option.map_eq_some_iff, Prod.exists, Prod.mk.injEq]
        constructor
        · rintro ⟨a, r, h, rfl, rfl⟩
          obtain ⟨before, after, rfl, rfl, ht, hb⟩ := ih.1 h
          exact ⟨y :: before, after, rfl, rfl, ht, by simpa [hy, ho] using hb⟩
        · rintro ⟨before, after, hl, rfl, ht, hb⟩
          cases before with
          | nil => cases hl; exact absurd ht hy
          | cons z before =>
            cases hl
            exact ⟨t, before ++ after, ih.2 ⟨before, after, rfl, rfl, ht, fun x hx => hb x (by simp [hx])⟩, rfl, rfl⟩

/-- With no trigger to take for a way, none is taken. -/
theorem takeTrigger_eq_none {path : TriggerPath} {l : List Trigger} :
    takeTrigger path l = none ↔ ∀ before t after, l = before ++ t :: after → t.cause.path = path →
      ∃ x ∈ before, ¬(x.cause.path ≠ path ∧ x.cause.path ≠ .order) := by
  constructor
  · intro h before t after hl ht
    refine Classical.byContradiction fun hc => ?_
    have := takeTrigger_eq_some.2 ⟨before, after, hl, rfl, ht, fun x hx =>
      Classical.byContradiction fun hn => hc ⟨x, hx, hn⟩⟩
    simp [h] at this
  · intro h
    cases ht : takeTrigger path l with
    | none => rfl
    | some r =>
      obtain ⟨before, after, hl, -, hp, hb⟩ := takeTrigger_eq_some.1 (show _ = some (r.1, r.2) from ht)
      obtain ⟨x, hx, hn⟩ := h before r.1 after hl hp
      exact absurd (hb x hx) hn

/-- The trigger of the free way is the next where it may be taken. -/
theorem nextTrigger_of_way {way : TriggerPath} {before after : List Trigger} {t : Trigger} (ht : t.cause.path = way)
    (hb : ∀ x ∈ before, x.cause.path ≠ way ∧ x.cause.path ≠ .order) :
    nextTrigger way (before ++ t :: after) = some (t, before ++ after) := by
  have h := takeTrigger_eq_some.2 ⟨before, after, rfl, rfl, ht, hb⟩
  cases before with
  | nil =>
    simp only [List.nil_append] at h ⊢
    simp only [nextTrigger, h]
    split <;> rfl
  | cons y before =>
    have hy : ¬(before ++ t :: after).all (fun x => x.cause.path = y.cause.path) = true := fun hc =>
      (hb y (by simp)).1 ((of_decide_eq_true (List.all_eq_true.1 hc t (by simp))).symm.trans ht)
    simp only [List.cons_append] at h ⊢
    simp only [nextTrigger, hy, h, Bool.false_eq_true, if_false, Option.getD_some]

/-- With none of the free way to take, the trigger given first is the next. -/
theorem nextTrigger_of_none {way : TriggerPath} {t : Trigger} {rest : List Trigger}
    (h : takeTrigger way (t :: rest) = none) : nextTrigger way (t :: rest) = some (t, rest) := by
  simp only [nextTrigger, h]
  split <;> rfl

/-- What every step of a sweep over the records keeps, the sweep keeps. -/
theorem State.eachSta_induct {P : State → Prop} {p : Station → Bool} {f : State → StaIx → State}
    (step : ∀ t i, P t → p (t.sta i) = true → P (f t i)) (s : State) (h : P s) : P (s.eachSta p f) := by
  unfold State.eachSta
  generalize List.finRange 128 = l
  induction l generalizing s with
  | nil => exact h
  | cons i l ih =>
    refine ih _ ?_
    dsimp only
    split
    · next hp => exact step s i h hp
    · exact h

/-! ## Queues, buffers and messages (R38 to R40, R64, R71, R128) -/

/-- A mark of game activity moves the records. -/
theorem State.touchGame_spec (s : State) (k : Option StaIx) : ∃ v,
    s.touchGame k = { s with stt := { s.stt with recs := v } } := by
  cases k with
  | none => exact ⟨_, rfl⟩
  | some i =>
    simp only [State.touchGame]
    split
    · exact ⟨_, rfl⟩
    · exact ⟨_, rfl⟩

theorem State.addBytes_spec (s : State) (i : StaIx) (n : Nat) : ∃ v,
    s.addBytes i n = { s with stt := { s.stt with recs := v } } := by
  simp only [State.addBytes]
  split
  · exact ⟨_, rfl⟩
  · exact ⟨_, rfl⟩

/-- The report of an enqueue moves the node's last-GAME time and the records. -/
theorem State.reportEnqueue_spec (s : State) (n : Nat) (c : TClass) (source k : Option StaIx) (p : Option PortId)
    (l : Bool) : ∃ g v, s.reportEnqueue n c source k p l =
      { s with flc := { s.flc with lastGame := g }, stt := { s.stt with recs := v } } := by
  have game : ∃ g v, (if c = .game then
      State.touchGame (State.touchGame { s with flc := { s.flc with lastGame := some s.now } } source) k else s) =
      { s with flc := { s.flc with lastGame := g }, stt := { s.stt with recs := v } } := by
    split
    · obtain ⟨v, hv⟩ := State.touchGame_spec { s with flc := { s.flc with lastGame := some s.now } } source
      rw [hv]
      obtain ⟨w, hw⟩ := State.touchGame_spec
        { s with flc := { s.flc with lastGame := some s.now }, stt := { s.stt with recs := v } } k
      exact ⟨_, w, hw⟩
    · exact ⟨_, _, rfl⟩
  obtain ⟨g, v, hg⟩ := game
  simp only [State.reportEnqueue, hg]
  split
  · split
    · exact ⟨_, _, rfl⟩
    · obtain ⟨w, hw⟩ := State.addBytes_spec
        { s with flc := { s.flc with lastGame := g }, stt := { s.stt with recs := v } } _ n
      exact ⟨_, w, hw⟩
  · exact ⟨_, _, rfl⟩

/-- A join moves the ports, the node's last-GAME time and the records. -/
theorem State.join_spec (s : State) (p : PortId) (f : Offered) : ∃ v g r, s.join p f =
    { s with
      frp := { s.frp with ports := v }, flc := { s.flc with lastGame := g }, stt := { s.stt with recs := r } } := by
  obtain ⟨g, r, h⟩ := State.reportEnqueue_spec (s.setPort p { s.port p with
    queues := put (s.port p).queues (classIx f.cls) ((s.port p).queues.get (classIx f.cls) ++
      [⟨f.frame, f.cls, f.station, f.hop, f.broadcast, s.copyRate p f.station f.hop,
        copyCost p (s.port p).config.overhead f.frame.length (s.copyRate p f.station f.hop)⟩])
    opportunity := (s.port p).opportunity || (s.port p).tx == .ready }) f.frame.length f.cls f.source f.station
    f.ingress f.listed
  exact ⟨_, g, r, h⟩

/-- The offer of a copy that needs a buffer has three outcomes. -/
theorem State.enqueueNew_cases (s : State) (p : PortId) (f : Offered) :
    s.enqueueNew p f = (s.count p f.cls .queue, false) ∨ s.enqueueNew p f = (s.count p f.cls .pool, false) ∨
    (s.queueRefuses p f.cls = false ∧ grants s.frp.free f.cls = true ∧
      s.enqueueNew p f = (s.takeBuffer.join p f, true)) := by
  unfold State.enqueueNew
  split
  · exact .inl rfl
  · next h1 =>
    split
    · exact .inr (.inl rfl)
    · next h2 => exact .inr (.inr ⟨by simpa using h1, by simpa using h2, rfl⟩)

/-- An offered copy moves the ports, the free count, the node's last-GAME time and the records. -/
theorem State.enqueueNew_spec (s : State) (p : PortId) (f : Offered) : ∃ v n g r, (s.enqueueNew p f).1 =
    { s with
      frp := { s.frp with ports := v, free := n }
      flc := { s.flc with lastGame := g }
      stt := { s.stt with recs := r } } := by
  rcases s.enqueueNew_cases p f with h | h | ⟨_, _, h⟩ <;> rw [h]
  · exact ⟨_, _, _, _, rfl⟩
  · exact ⟨_, _, _, _, rfl⟩
  · obtain ⟨v, g, r, hj⟩ := s.takeBuffer.join_spec p f
    exact ⟨v, _, g, r, hj⟩

/-- A held frame offered to a queue moves the same fields. -/
theorem State.enqueueHeld_spec (s : State) (p : PortId) (f : Offered) : ∃ v n g r, (s.enqueueHeld p f).1 =
    { s with
      frp := { s.frp with ports := v, free := n }
      flc := { s.flc with lastGame := g }
      stt := { s.stt with recs := r } } := by
  unfold State.enqueueHeld
  split
  · exact ⟨_, _, _, _, rfl⟩
  · obtain ⟨v, g, r, hj⟩ := s.join_spec p f
    exact ⟨v, _, g, r, hj⟩

/-- The release of a hold list moves the same fields. -/
theorem State.releaseHeld_spec (p : PortId) (k : Option StaIx) (n : Option Node) (l : List Held) (s : State) :
    ∃ v m g r, (State.releaseHeld p k n l s).1 =
    { s with
      frp := { s.frp with ports := v, free := m }
      flc := { s.flc with lastGame := g }
      stt := { s.stt with recs := r } } := by
  induction l generalizing s with
  | nil => exact ⟨_, _, _, _, rfl⟩
  | cons h hs ih =>
    obtain ⟨v, m, g, r, e⟩ := s.enqueueHeld_spec p ⟨h.frame, h.cls, k, n, false, h.source, some h.ingress, h.listed⟩
    simp only [State.releaseHeld]
    obtain ⟨v', m', g', r', e'⟩ := ih
      (s.enqueueHeld p ⟨h.frame, h.cls, k, n, false, h.source, some h.ingress, h.listed⟩).1
    rw [e', e]
    exact ⟨v', m', g', r', rfl⟩

/-- The purge of a station's copies moves the ports and the free count. -/
theorem State.purgeStation_spec (s : State) (i : StaIx) : ∃ v n,
    s.purgeStation i = { s with frp := { s.frp with ports := v, free := n } } := by
  unfold State.purgeStation
  generalize PortId.all = l
  induction l generalizing s with
  | nil => exact ⟨_, _, rfl⟩
  | cons p l ih =>
    obtain ⟨v, n, h⟩ := ih (s.purgePort p fun c => c.station == some i)
    exact ⟨v, n, h⟩

/-- A message to a peer moves the sequence number and what its enqueue moves. -/
theorem State.sendTo_spec (s : State) (n : Node) (k : Nat) (b : List Byte) : ∃ q v m g r, s.sendTo n k b =
    { s with
      mlc := { s.mlc with seq := q }
      frp := { s.frp with ports := v, free := m }
      flc := { s.flc with lastGame := g }
      stt := { s.stt with recs := r } } := by
  unfold State.sendTo State.send
  split
  · split
    · simp only [State.sendFrame]
      obtain ⟨v, m, g, r, h⟩ := State.enqueueNew_spec { s with mlc := { s.mlc with seq := s.mlc.seq + 1 } } .mesh
        ⟨_, messageClass k, none, some n, false, none, none, false⟩
      exact ⟨_, v, m, g, r, h⟩
    · exact ⟨_, _, _, _, _, rfl⟩
  · exact ⟨_, _, _, _, _, rfl⟩

/-! ## Evaluations (R116) -/

/-- The moves of an evaluation only give reports. -/
theorem moves_spec (t : Trigger) (x : Profile) (holds : Cond → Bool) (began : Fin 6) (left : Nat) (cur : Fin 6)
    (s : State) : ∃ l, (moves t x holds began left cur s).1 =
      { s with exu := { s.exu with arrivals := s.exu.arrivals ++ l } } ∧ l.length ≤ left + 1 := by
  induction left generalizing cur s with
  | zero =>
    unfold moves
    split
    · exact ⟨[], by simp, by simp⟩
    · exact ⟨_, rfl, by simp⟩
  | succ left ih =>
    unfold moves
    split
    · exact ⟨[], by simp, by simp⟩
    · next k _ =>
      obtain ⟨l, h, hl⟩ := ih ((x.states.get cur).transitions.get k).dest
        (s.giveReport .profileState t.profile.val
          (stateBody x ((x.states.get cur).transitions.get k).dest began (Config.maxMoves - left) t.cause))
      simp only [h]
      exact ⟨⟨.profileState, t.profile.val, s.sck.ms,
        stateBody x ((x.states.get cur).transitions.get k).dest began (Config.maxMoves - left) t.cause⟩ :: l,
        by simp [State.giveReport, State.now], by simp; omega⟩

/-! ## The stager (R159, R162) -/

/-- A request for chunks moves the fetch and what a message moves. -/
theorem State.sendWant_spec (s : State) (n : Node) : ∃ f q v m g r, s.sendWant n =
    { s with
      ups := { s.ups with fetch := f }
      mlc := { s.mlc with seq := q }
      frp := { s.frp with ports := v, free := m }
      flc := { s.flc with lastGame := g }
      stt := { s.stt with recs := r } } := by
  simp only [State.sendWant]
  split
  · exact ⟨_, _, _, _, _, _, rfl⟩
  · obtain ⟨q, v, m, g, r, h⟩ := s.sendTo_spec n kChunkWant
      (wantBody s.stagingId ((missingChunks s.ups.map).take 8))
    rw [h]
    exact ⟨_, q, v, m, g, r, rfl⟩

/-- The selection of a source moves the same fields, or gives one report. -/
theorem State.selectSource_spec (s : State) (f : Fetch) : ∃ f' l q v m g r, s.selectSource f =
    { s with
      exu := { s.exu with arrivals := s.exu.arrivals ++ l }
      ups := { s.ups with fetch := f' }
      mlc := { s.mlc with seq := q }
      frp := { s.frp with ports := v, free := m }
      flc := { s.flc with lastGame := g }
      stt := { s.stt with recs := r } } := by
  unfold State.selectSource
  split
  · next n _ =>
    obtain ⟨f', q, v, m, g, r, h⟩ := s.sendWant_spec n
    exact ⟨f', [], q, v, m, g, r, by rw [h, List.append_nil]⟩
  · exact ⟨_, _, _, _, _, _, _, rfl⟩

/-- What a change of the chunk map means for a fetch moves the fetch and what a message moves. -/
theorem State.fetchGoesOn_spec (s : State) : ∃ f q v m g r, s.fetchGoesOn =
    { s with
      ups := { s.ups with fetch := f }
      mlc := { s.mlc with seq := q }
      frp := { s.frp with ports := v, free := m }
      flc := { s.flc with lastGame := g }
      stt := { s.stt with recs := r } } := by
  unfold State.fetchGoesOn
  split
  · exact ⟨_, _, _, _, _, _, rfl⟩
  · split
    · exact ⟨_, _, _, _, _, _, rfl⟩
    · split
      · exact ⟨_, _, _, _, _, _, rfl⟩
      · split
        · exact s.sendWant_spec _
        · exact ⟨_, _, _, _, _, _, rfl⟩

/-- A STAGE_CHUNK that takes a buffer moves the buffers, the order worked and the bus. -/
theorem State.stageInto_spec (s : State) (b : Fin 4) (id chunk offset : Nat) : ∃ v w c x l, s.stageInto b id chunk offset =
    { s with
      ups := { s.ups with bufs := v, work := w }
      exu := { s.exu with cursor := c, bus := x, busWait := l } } := by
  unfold State.stageInto
  split
  · next o m _ _ =>
    obtain ⟨c, x, l, h⟩ := ((s.setBuf b (some ⟨chunk, [], some id, .reading⟩)).setWork (.stage id)).bulkRead_spec o offset
      (m.chunkLen chunk)
    exact ⟨_, _, c, x, l, h⟩
  · exact ⟨_, _, _, _, _, rfl⟩

/-- A freed buffer moves the same fields. -/
theorem State.freeBuf_spec (s : State) (b : Fin 4) : ∃ v w c x l, s.freeBuf b =
    { s with
      ups := { s.ups with bufs := v, work := w }
      exu := { s.exu with cursor := c, bus := x, busWait := l } } := by
  simp only [State.freeBuf]
  split
  · next id chunk offset _ =>
    obtain ⟨v, w, c, x, l, h⟩ := (s.setBuf b none).stageInto_spec b id chunk offset
    exact ⟨v, w, c, x, l, h⟩
  · exact ⟨_, _, _, _, _, rfl⟩

end Sys2Proof.Machine
end

