-- ==== Sys2Proof/Tests/Slice0.lean ====
section
/-!
SUPPORT. Tests of the model on fixed values, taken from the examples and tables of the manual, and for every statement
with hypotheses a witness: a concrete state and operands that meet the hypotheses of each of its clauses.
-/

open Sys2Proof Sys2Proof.Machine

namespace Sys2Proof.Tests

-- One test is checked after another: many at once need more memory than the check allows.
set_option Elab.async false

/-! ## Small states -/

/-- The area of the tests: 64 KiB at 0x10000. -/
def area : Area := ⟨0x10000, 65536⟩

/-- The part RUNNING with the area in use, 5 s of millisecond time, the slot record check done. -/
def running : State := { State.reset with
  exu := { Exu.reset with engine := .running, area := area, cursor := .anchor, reportPos := .anchor }
  sck := { Sck.reset with counting := true, ms := 5000, us := 5000000 }
  hoc := { Hoc.reset with checkAt := 5200 }
  fls := { Fls.reset with boot := .done } }

/-- An order in flight of a kind with its parameter bytes, taken from the block at offset 128. -/
def order (k : Byte) (ps : List Byte) : Order := ⟨7, 128, k, ps, ownerOf k, area, none, false, .fresh, false⟩

/-- A state whose one order in flight is of a kind with parameter bytes. -/
def given (s : State) (k : Byte) (ps : List Byte) : State :=
  { s with exu := { s.exu with inFlight := [order k ps], nextOrder := 8 } }

/-- The state a command gives. -/
def out (r : Result) : State :=
  match r with
  | .next t => t
  | .fault _ | .refused _ => State.reset

/-- The answers handed over by a command. -/
def answers (c : Instr) (s : State) : List Answer := (out (exec c s)).exu.answers

/-- The answer to the order of `given`. -/
def ans (st : Status) (results : List Byte) : List Answer := [⟨7, st, 0, results⟩]

def macA : Mac := 0x020000000001
def macB : Mac := 0x020000000002

/-- A record of a MAC on RADIO_A in a state, of profile 0. -/
def station (m : Mac) (st : StaState) : Station :=
  { Station.free with state := st, mac := m, profile := some 0, rate := 100, signal := some (-1200) }

/-- A port turned on, its link READY. -/
def on (p : PortId) : Port := { Port.reset p with enabled := true, tx := .ready }

/-- All ports turned on and READY. -/
def live : State := { running with frp := { Frp.reset with
  ports := #v[on .localPort, on .wan, on .radioA, on .radioB, on .mesh] } }

def peer (n : Node) (m : Mac) : Peer := ⟨n, m, 866, true, some 4500, some 1, 0, false, false, false, 0, 0, 0⟩

/-- The mesh turned on as node 0, with node 1 PRESENT. -/
def meshed : State := { live with mlc := { Mlc.reset with
  set := true, node := 0, mac := 0x020000000010, enable := true
  peers := #v[some (peer 1 0x020000000011), none, none, none, none, none, none] } }

/-- Profile 0 in use. -/
def used0 (s : State) : State := s.setProfile 0 { Profile.reset with inUse := true }

/-- Station 0 in a state, of profile 0. -/
def sta0 (s : State) (st : StaState) : State := s.setSta 0 (station macA st)

/-- The clock set to day 9, weekday 6, 23:59. -/
def clocked (s : State) : State := { s with sck := { s.sck with set := true, day := 9, weekday := 6, minute := 1439 } }

/-! ## Operands (WellFormed) -/

theorem test_misaligned_word_write_is_ill_formed : (Instr.registerWrite 6 .word 0).wellFormed = false := by decide
theorem test_misaligned_half_write_is_ill_formed : (Instr.registerWrite 5 .half 0).wellFormed = false := by decide
theorem test_aligned_word_write_is_well_formed : (Instr.registerWrite 4 .word 0).wellFormed = true := by decide
theorem test_long_bus_access_is_ill_formed :
    (Instr.busAccessComplete true (List.replicate 257 0)).wellFormed = false := by decide +kernel
theorem test_long_flash_read_is_ill_formed :
    (Instr.flashOperationComplete (List.replicate 4097 0)).wellFormed = false := by decide +kernel
/-- R90: the table of the rule delivers a sample of -140 dBm, which it clamps. -/
theorem test_sample_of_the_table_is_well_formed_and_clamped :
    (Instr.acceptance .radioA [] (-140)).wellFormed = true ∧ signalStep (some (-1129)) (-140) = -1242 := by decide

/-! ## Examples of the manual -/

/-- R168: the CRC-32 of the nine characters 1 to 9. -/
theorem test_crc_of_nine_digits : crc32 [0x31, 0x32, 0x33, 0x34, 0x35, 0x36, 0x37, 0x38, 0x39] = 0xCBF43926#32 := by
  decide +kernel

/-- R46: a frame and its reply have one key, with endpoint A 192.168.1.50:50002. -/
theorem test_flow_key_of_frame_and_reply :
    IpInfo.key ⟨4, 17, 0xC0A80132 <<< 96, 0xC6336407 <<< 96, 50002, 27015, 0⟩ =
      ⟨4, 17, 0xC0A80132 <<< 96, 50002, 0xC6336407 <<< 96, 27015⟩ ∧
    IpInfo.key ⟨4, 17, 0xC6336407 <<< 96, 0xC0A80132 <<< 96, 27015, 50002, 0⟩ =
      ⟨4, 17, 0xC0A80132 <<< 96, 50002, 0xC6336407 <<< 96, 27015⟩ := by decide +kernel

/-- R90: the five steps of the table of signal averages. -/
theorem test_signal_average_steps :
    signalStep none (-70) = -1120 ∧ signalStep (some (-1120)) (-78) = -1136 ∧ signalStep (some (-1136)) (-69) = -1132 ∧
    signalStep (some (-1132)) (-69) = -1129 ∧ signalStep (some (-1129)) (-140) = -1242 := by decide

/-- Table 7-2: the window test. -/
theorem test_window_table :
    (⟨0x1F, 960, 1080⟩ : Window).openAt 2 960 = true ∧ (⟨0x1F, 960, 1080⟩ : Window).openAt 2 1080 = false ∧
    (⟨0x1F, 960, 1080⟩ : Window).openAt 5 1000 = false ∧ (⟨0x7F, 1260, 420⟩ : Window).openAt 3 0 = true ∧
    (⟨0x10, 1260, 420⟩ : Window).openAt 5 300 = true ∧ (⟨0x10, 1260, 420⟩ : Window).openAt 4 300 = false ∧
    (⟨0x7F, 600, 600⟩ : Window).openAt 0 600 = false := by decide

/-- R51: a GAME record of 41200 ms goes at the check at 72000 ms and not at the check at 71000 ms. -/
theorem test_flow_idle_example : pastBy 72000 41200 30000 = true ∧ pastBy 71000 41200 30000 = false := by decide


/-! ## The step and the exchange -/

theorem test_area_size_examples :
    areaSizeOf 100000 = 65536 ∧ areaSizeOf 0 = 65536 ∧ areaSizeOf 20000000 = 16777216 := by decide

theorem witness_StepRunsTheFrontCommand :
    step { running with pending := [.nudge, .nop] } = exec .nudge { running with pending := [.nop] } := rfl

/-- A report given is due; in `running` nothing is, so a microsecond passes. -/
theorem witness_IdleStepRunsWhatIsDueOrPassesTime :
    (running.giveReport .fetchStalled 0 []).pending = [] ∧
    (running.giveReport .fetchStalled 0 []).nextInternal = some .reportArrival ∧
    running.pending = [] ∧ running.nextInternal = none ∧ (out (step running)).sck.us = 5000001 := by decide +kernel

/-- The tick before the first RUN, within a millisecond, at a second, at a minute boundary, at an unset minute, at a whole
second. -/
theorem witness_IdleStepPassesTime :
    let at_ := fun (k : Sck) => { running with sck := { k with usPart := 999 } }
    let clock := (clocked running).sck
    (State.reset.sck.counting = false ∧ State.reset.tick.sck.ms = 0) ∧
    (running.sck.counting = true ∧ running.sck.usPart + 1 < 1000 ∧ running.tick.sck.ms = 5000) ∧
    (let s := at_ { clock with phase := 999, second := 58 }
     1000 ≤ s.sck.usPart + 1 ∧ s.tick.sck.second = 59 ∧ s.tick.sck.phase = 0 ∧ s.tick.sck.minuteDue = false) ∧
    (let s := at_ { clock with phase := 999, second := 59 }
     s.tick.sck.second = 59 ∧ s.tick.sck.minuteDue = true) ∧
    (let s := at_ { running.sck with unsetCount := 59999 }
     s.tick.sck.unsetDue = true ∧ s.tick.sck.unsetCount = 59999) ∧
    (let s := at_ { running.sck with ms := 5999 }
     s.tick.frp.agingDue = true ∧ s.tick.mlc.beaconDue = true) := by decide +kernel

theorem witness_EveryStepKeepsTheInvariants :
    PoolInv running ∧ ListsInv running ∧ HoldInv running ∧ BucketInv running ∧ RoundInv running ∧ MacInv running ∧
    step running = .next running.tick := by
  refine ⟨⟨by decide +kernel, by intro p; cases p <;> decide +kernel, by decide +kernel⟩,
    ⟨by decide +kernel, by decide +kernel, by decide +kernel, by decide +kernel, by decide +kernel, by decide +kernel⟩,
    ?_, fun p => ?_, ⟨fun p => ?_, ?_, ?_⟩, ⟨?_, ?_, ?_⟩, ?_⟩
  · intro h
    cases h
  · cases p <;> exact ⟨by decide +kernel, by decide +kernel, by decide +kernel⟩
  · cases p <;> exact ⟨by decide +kernel, by decide +kernel, by intro c; cases c <;> decide +kernel,
      fun y h => (by cases (show (none : Option Ingress) = some y from h)), by decide +kernel,
      by decide +kernel⟩
  · intro i l h
    simp [State.sta, running, State.reset, Stt.reset, Station.free] at h
  · intro i l h
    simp [State.sta, running, State.reset, Stt.reset, Station.free] at h
  · intro i j h
    simp [State.sta, running, State.reset, Stt.reset, Station.free] at h
  · intro i j e f h
    simp [running, State.reset, Frp.reset] at h
  · intro i e j h
    simp [running, State.reset, Frp.reset] at h
  · have h : running.nextInternal = none := by decide +kernel
    simp only [step, idle, h]
    rfl

/-- The engine in a state. -/
def engine (e : Engine) : State := { running with exu := { running.exu with engine := e } }

theorem witness_PowerOnAndResetEmptyThePart :
    (engine .resetting).exu.engine = .resetting ∧ running.exu.engine ≠ .resetting ∧
    (engine .resetting).fls.op = none ∧ (engine .resetting).fls.stalled = false ∧
    (engine .resetting).exu.resetUntil.toNat ≤ (engine .resetting).sck.us.toNat ∧
    (out (exec .reset running)).exu.resetUntil = 5500000 ∧
    (out (exec .resetDone (engine .resetting))).event .resetDone = true := by decide +kernel

theorem witness_RegistersAndEventsFollowTheirTables :
    (Width.byte ≠ .word ∨ (0x04 : BitVec 5).toNat % 4 ≠ 0) ∧ (Width.word ≠ .word ∨ (0x06 : BitVec 5).toNat % 4 ≠ 0) ∧
    (out (exec (.registerWrite 0x04 .word 0x1234FFFF) running)).exu.areaLow = 0x12340000 ∧
    (out (exec (.registerWrite 0x04 .byte 0xFF) running)).exu.areaLow = 0 ∧
    (out (exec (.eventsWrite 1) (running.setEvent .answered))).exu.events = 0 := by decide +kernel

theorem test_event_interrupts_once :
    let s := { running with exu := { running.exu with eventMask := 1 } }
    (s.setEvent .answered).exu.msi = 1 ∧ ((s.setEvent .answered).setEvent .answered).exu.msi = 1 := by decide +kernel

/-- The header read of a RUN on the bus, the engine in a state. -/
def headerOnBus (e : Engine) : State := { running with exu := { running.exu with
  engine := e, fault := if e = .halted then .readError else .none, runWait := some true
  bus := some (⟨.order, false, area.base, 64, [], .header⟩, 5000000) } }

/-- A header of version 1 with order head 0x80, report head 0x100 and a scan period. -/
def header (version : Byte) (period : Nat) : List Byte :=
  pad 64 ([version, 0, 0, 0] ++ le 4 0x80 ++ le 4 0x100 ++ le 2 period)

theorem witness_RunReadsTheHeaderAndStartsTheEngine :
    (State.reset.exu.runWait = none ∧ State.reset.exu.engine = .off) ∧
    ((engine .halted).exu.runWait = none ∧ (engine .halted).exu.engine = .halted) ∧
    (running.exu.runWait = none ∧ running.exu.engine = .running) ∧
    ((engine .resetting).exu.engine = .resetting ∧ (headerOnBus .off).exu.runWait.isSome = true) ∧
    (header 1 50).length = 64 ∧ leAt (header 1 50) 4 4 % 64 = 0 ∧ leAt (header 1 50) 8 4 % 64 = 0 ∧
    (out (exec (.busAccessComplete true (header 1 50)) (headerOnBus .off))).exu.engine = .running ∧
    (out (exec (.busAccessComplete true (header 1 50)) (headerOnBus .off))).exu.scanAt = some 5050 ∧
    (out (exec (.busAccessComplete true (header 1 0)) (headerOnBus .off))).exu.scanAt = none ∧
    (out (exec (.busAccessComplete true (header 2 50)) (headerOnBus .off))).exu.fault = .headerInvalid ∧
    (out (exec (.busAccessComplete true (header 2 50)) (headerOnBus .halted))).exu.fault = .readError ∧
    (out (exec (.busAccessComplete false (header 1 50)) (headerOnBus .off))).exu.engine = .halted := by decide +kernel

/-- R27, Table 1-5: reports that wait at a valid RUN are not placed before a look or a join. -/
theorem test_reports_wait_after_run :
    let s := { headerOnBus .halted with exu := { (headerOnBus .halted).exu with
      hold := [⟨.steer, 0, 5000, []⟩], place := .due, runWait := some false } }
    (out (exec (.busAccessComplete true (header 1 50)) s)).exu.place = .idle ∧
    (out (exec (.busAccessComplete true (header 1 50)) s)).exu.hold.length = 1 := by decide +kernel

/-- A look in a state, with `n` orders in flight. -/
def looking (l : Look) (n : Nat) : State := { running with exu := { running.exu with
  look := l, inFlight := (List.range n).map fun k => { order 0 [] with id := k, offset := 64 * k }, nextOrder := n } }

/-- A report of a kind and subject. -/
def report (k : ReportKind) (n : Nat) : Report := ⟨k, n, 5000, []⟩

/-- `running` with reports in the hold queue. -/
def holds (l : List Report) : State := { running with exu := { running.exu with hold := l } }

/-- The TAKEN write of an order of a kind on the bus. -/
def taking (k : Byte) : State := { running with exu := { running.exu with
  look := .taking 192 (pad 64 (le 4 0 ++ [2, k]))
  cursor := .block 128 true
  bus := some (⟨.order, true, area.base + 196, 1, [2], .taken⟩, 5000000) } }

theorem witness_LooksReadTheChainAndTakeOrders :
    (running.exu.engine = .running ∧ running.exu.look = .idle ∧ (looking .pointer 0).exu.look ≠ .idle) ∧
    ((engine .halted).exu.engine ≠ .running) ∧
    (let s := { running with exu := { running.exu with scanAt := some 5000, scanPeriod := 50 } }
     s.sck.counting = true ∧ (s.sck.ms - 5000).toNat < 2 ^ 31 ∧ (out (exec .scanTimerExpiry s)).exu.scanAt = some 5050) ∧
    (let s := { holds [report .steer 0] with exu := { (holds [report .steer 0]).exu with look := .due } }
     s.exu.hold ≠ [] ∧ (out (exec .look s)).exu.look = .draining) ∧
    ((looking .due 16).exu.hold = [] ∧ 16 ≤ (looking .due 16).exu.inFlight.length ∧
      (out (exec .look (looking .due 16))).exu.look = .idle) ∧
    ((looking .due 15).exu.inFlight.length < 16 ∧ (out (exec .look (looking .due 15))).exu.look = .pointer) ∧
    ((taking 0).exu.look = .taking 192 (pad 64 (le 4 0 ++ [2, 0])) ∧
      (out (exec .takeComplete (taking 0))).exu.cursor = .block 192 false ∧
      (out (exec .takeComplete (taking 0))).exu.bus.map (fun b => b.1.data) = some [4]) := by decide +kernel

/-- R11: a block ANSWERED and POSTED again that names itself is taken with the cursor on it, and not RELEASED. -/
theorem test_resting_block_is_not_released :
    let s := { taking 0 with exu := { (taking 0).exu with cursor := .block 192 true } }
    (out (exec .takeComplete s)).exu.cursor = .block 192 false ∧ (out (exec .takeComplete s)).exu.bus = none := by
  decide +kernel

/-- A read of a look on the bus, the look in a state. -/
def lookRead (l : Look) (w : BusOwner) (n : Nat) : State := { looking l 0 with exu := { (looking l 0).exu with
  bus := some (⟨.order, false, area.base, n, [], w⟩, 5000000) } }

/-- The look's own reads at the boundaries of R10: the pointer, the head, the rest of a block, and a look that has ended. -/
theorem witness_LooksReadTheirBlocks :
    let after := fun (s : State) (data : List Byte) => out (exec (.busAccessComplete true data) s)
    let p := fun n => after (lookRead .pointer .lookPointer 4) (le 4 n)
    let h := fun (state : Byte) (len : Nat) => after (lookRead (.head 64) .lookHead 16) ([0, 0, 0, 0, state, 7] ++ le 2 len ++ le 8 0)
    (p 0).exu.look = .idle ∧ (p 65472).exu.look = .head 65472 ∧ (p 65536).exu.fault = .chainPointerInvalid ∧
    (p 70).exu.fault = .chainPointerInvalid ∧
    (h 0 64).exu.look = .idle ∧ (h 1 63).exu.fault = .blockInvalid ∧ (h 1 4160).exu.fault = .blockInvalid ∧
    (h 1 65).exu.fault = .blockInvalid ∧ (h 1 64).exu.look = .rest 64 64 ([0, 0, 0, 0, 1, 7] ++ le 2 64 ++ le 8 0) ∧
    (after (lookRead (.rest 64 64 (List.replicate 16 0)) .lookRest 47) (List.replicate 47 0)).exu.look =
      .rest 64 64 (List.replicate 63 0) ∧
    (after (lookRead (.rest 64 64 (List.replicate 16 0)) .lookRest 48) (List.replicate 48 0)).exu.look =
      .taking 64 (List.replicate 64 0) ∧
    (after (lookRead .idle .lookHead 16) (List.replicate 16 0)).exu.look = .idle ∧
    (looking .draining 16).drainEnd.exu.look = .idle ∧ (looking .draining 15).drainEnd.exu.look = .pointer ∧
    (looking .idle 15).drainEnd.exu.look = .idle := by decide +kernel

theorem witness_ArbiterStartsTheOldestOfTheHighestClass :
    let a : Access := ⟨.bulk, false, 0, 4, [], .nobody⟩
    let b : Access := ⟨.answer, true, 0, 1, [4], .nobody⟩
    [a, b] ≠ [] ∧ nextAccess [a, b] = some (b, [a]) ∧ nextAccess [a, { a with addr := 4 }] = some (a, [{ a with addr := 4 }]) :=
  by decide +kernel

theorem witness_ArbiterIsTiedToTheBus :
    let a : Access := ⟨.bulk, false, 0, 4, [], .nobody⟩
    let b : Access := ⟨.answer, true, 0, 1, [4], .nobody⟩
    let taken := { running with exu := { running.exu with bus := some (a, 0), busWait := [a] } }
    (taken.exu.bus.isSome = true ∧ (taken.request [b]).exu.busWait = [a, b]) ∧
    (running.exu.bus = none ∧ nextAccess (running.exu.busWait ++ [a, b]) = some (b, [a]) ∧
      (running.request [a, b]).exu.bus.map Prod.fst = some b) ∧
    (running.exu.busWait = [] ∧ running.busFree.exu.bus = none) ∧
    (nextAccess taken.exu.busWait = some (a, []) ∧ taken.busFree.exu.busWait = []) ∧
    ((running.exu.bus = none → running.exu.busWait = []) ∧ (out (step running)).exu.bus = none) ∧
    (readAccesses .bulk area 64 257 .nobody).map (fun x => x.len) = [256, 1] ∧
    (readAccesses .bulk area 64 256 .nobody).map (fun x => x.len) = [256] := by decide +kernel

/-- An answer handed over, to the last order of a list of `n`. -/
def answered (n : Nat) : State := { looking .idle n with exu := { (looking .idle n).exu with
  answers := [⟨n - 1, .ok, 0, [1]⟩] } }

/-- The state byte of an answer about to be written. -/
def stateWrite (offset : Nat) : Access := ⟨.answer, true, area.base + BitVec.ofNat 64 (offset + 4), 1, [], .answerState offset⟩

theorem witness_AnswersAreHandedOverAndWritten :
    (answered 16).exu.answers = [⟨15, .ok, 0, [1]⟩] ∧
    ((answered 16).exu.inFlight.find? fun x => x.id == 15).isSome = true ∧
    (out (exec .answer (answered 16))).exu.look = .due ∧ (out (exec .answer (answered 1))).exu.look = .idle ∧
    (out (exec .answer (answered 1))).exu.inFlight = [] ∧
    (let s := { running with exu := { running.exu with cursor := .block 128 false } }
     (s.startAccess (stateWrite 128)).exu.cursor = .block 128 true ∧
     (s.startAccess (stateWrite 192)).exu.bus.map (fun b => b.1.data) = some [4]) ∧
    (let s := { running with exu := { running.exu with bus := some (stateWrite 128, 5000000) } }
     (out (exec (.busAccessComplete true []) s)).event .answered = true) := by decide +kernel

/-- A report given, `l` waiting, the engine in a state and the placement at a place. -/
def arriving (r : Report) (l : List Report) (e : Engine) (p : Place) : State := { running with exu := { running.exu with
  arrivals := [r], hold := l, engine := e, place := p } }

theorem witness_ReportsAreHeldAndPlaced :
    (ReportKind.coalesces .peerChange = true ∧ ReportKind.coalesces .steer = false) ∧
    ((arriving (report .peerChange 1) [report .steer 0, report .peerChange 1] .running .idle).headBegun = false) ∧
    ((arriving (report .peerChange 1) [report .peerChange 1] .running (.body 64)).headBegun = true) ∧
    (out (exec .reportArrival (arriving (report .peerChange 1) [report .peerChange 1] .running (.body 64)))).exu.hold.length = 2 ∧
    (out (exec .reportArrival (arriving (report .peerChange 1) (List.replicate 2 (report .peerChange 1)) .running
      (.body 64)))).exu.hold.length = 2 ∧
    (out (exec .reportArrival (arriving (report .peerChange 1) [report .peerChange 1] .halted .idle))).exu.hold.length = 1 ∧
    (out (exec .reportArrival (arriving (report .steer 1) [] .halted .idle))).event .backlog = true ∧
    (out (exec .reportArrival (arriving (report .steer 1) [] .running .idle))).exu.place = .due ∧
    (out (exec .reportArrival (arriving (report .steer 1) (List.replicate 32 (report .steer 0)) .running .idle))).event
      .reportLoss = true ∧
    (out (exec .reportArrival (arriving (report .steer 1) (List.replicate 31 (report .steer 0)) .running .idle))).exu.hold.length
      = 32 ∧
    (let s := { running with exu := { running.exu with place := .due, hold := [report .steer 0] } }
     (out (exec .placement s)).exu.place = .pointer) ∧
    (let s := { running with exu := { running.exu with
        place := .filled 256, hold := [report .steer 0]
        bus := some (⟨.report, true, area.base + 260, 1, [1], .placeFilled⟩, 5000000) } }
     (out (exec (.busAccessComplete true []) s)).event .reported = true) := by decide +kernel

/-- An access of a placement on the bus. -/
def placing (p : Place) (w : BusOwner) (write : Bool) (n : Nat) : State := { running with exu := { running.exu with
  place := p, hold := [report .steer 0], bus := some (⟨.report, write, area.base, n, [], w⟩, 5000000) } }

/-- The paths of a placement (R20): a pointer of 0, out of place, in place; a block that is not EMPTY and one that is. -/
theorem witness_PlacementsReadAndWrite :
    let after := fun (s : State) (data : List Byte) => out (exec (.busAccessComplete true data) s)
    let p := fun n => after (placing .pointer .placePointer false 4) (le 4 n)
    (p 0).exu.blocked = true ∧ (p 0).exu.place = .idle ∧ (p 0).event .backlog = true ∧ (p 0).exu.hold.length = 1 ∧
    (p 70).exu.fault = .chainPointerInvalid ∧ (p 65536).exu.fault = .chainPointerInvalid ∧ (p 65472).exu.place = .state 65472 ∧
    (after (placing (.state 64) .placeState false 1) [1]).exu.blocked = true ∧
    (after (placing (.state 64) .placeState false 1) [0]).exu.place = .body 64 ∧
    (after (placing (.body 64) .placeBody true 59) []).exu.place = .filled 64 ∧
    (after (placing (.filled 64) .placeFilled true 1) []).exu.hold = [] := by decide +kernel

/-- A read of a look on the bus since a scheduler time. -/
def reading (since : Us) : State := { looking .pointer 0 with exu := { (looking .pointer 0).exu with
  bus := some (⟨.order, false, area.base + 4, 4, [], .lookPointer⟩, since) } }

theorem witness_LateOrFailedAccessHaltsTheEngine :
    ((reading 4998001).sck.us - 4998001).toNat < 2000 ∧ 2000 ≤ ((reading 4998000).sck.us - 4998000).toNat ∧
    (out (exec .busAccessTimeout (reading 4998001))).exu.engine = .running ∧
    (out (exec .busAccessTimeout (reading 4998000))).exu.fault = .readError := by decide +kernel

/-- A bulk access of an order on the bus, with another piece waiting. -/
def bulkOn (k : Byte) (write : Bool) (n : Nat) (wait : Bool) : State :=
  { (given running k []) with exu := { (given running k []).exu with
      bus := some (⟨.bulk, write, area.base, n, [], .bulk 7⟩, 5000000)
      busWait := if wait then [⟨.bulk, write, area.base, n, [], .bulk 7⟩] else [] } }

theorem witness_FailedTransfersEndTheirOrders :
    (out (exec (.busAccessComplete false []) (headerOnBus .off))).exu.fault = .headerInvalid ∧
    (out (exec (.busAccessComplete false []) (headerOnBus .halted))).exu.fault = .readError ∧
    ((bulkOn 0x02 true 4 true).orderOf 7 = some (order 0x02 []) ∧ (order 0x02 []).owner = .exu ∧
      (bulkOn 0x02 true 4 true).ups.work = .idle ∧
      answers (.busAccessComplete false []) (bulkOn 0x02 true 4 true) = ans .areaError [] ∧
      (out (exec (.busAccessComplete false []) (bulkOn 0x02 true 4 true))).exu.busWait = [] ∧
      (out (exec (.busAccessComplete false []) (bulkOn 0x02 true 4 true))).exu.fault = .writeError) ∧
    answers (.busAccessComplete false []) (bulkOn 0x90 true 4 false) = ans .areaError [] ∧
    answers (.busAccessComplete false []) (bulkOn 0x80 false 4 false) = ans .areaError [] := by decide +kernel

/-- A transfer that fails while a STAGE_CHUNK of order 9 waits for a buffer: one of the Exchange Unit leaves the stager
as it is, one of the stager gives the buffer it read into to the order that waits. -/
theorem witness_FailedTransferWithAStageWaiting :
    let waiting := fun (k : Byte) (bufs : Vector (Option Buf) 4) =>
      let s := bulkOn k false 4 false
      { s with
        exu := { s.exu with inFlight := s.exu.inFlight ++ [{ order 0x81 [] with id := 9 }] }
        ups := { s.ups with work := .stageWait 9 5 4096, manifest := some ⟨1, 4096, 1, [0]⟩, bufs := bufs } }
    let buf : Buf := ⟨3, [], some 7, .reading⟩
    let fails := fun (s : State) => out (exec (.busAccessComplete false []) s)
    (fails (waiting 0x02 (.replicate 4 none))).ups.work = .stageWait 9 5 4096 ∧
    (fails (waiting 0x80 (.replicate 4 none))).ups.work = .idle ∧
    (fails (waiting 0x80 #v[none, some buf, none, none])).ups.bufs.get 1 = some ⟨5, [], some 9, .reading⟩ ∧
    (waiting 0x80 #v[none, some buf, none, none]).exu.engine = .running := by decide +kernel

/-- A READ_MORE after an order that left a read position, 5 PORTS entries remaining. -/
def more (predecessor : Nat) (dest capacity : Nat) : State := { running with exu := { running.exu with
  readPos := some ⟨3, 0, 0, 5⟩
  inFlight := [{ order 0x03 (le 4 dest ++ le 4 capacity) with predecessor := some predecessor }] } }

/-- R4, Table 11-2: STATUS in HALTED with WRITE_ERROR, 2 orders in flight and 3 reports held, and one of its bytes. -/
theorem witness_RegistersAreRead :
    let s := { engine .halted with exu := { (engine .halted).exu with
      fault := .writeError, inFlight := [order 0 [], order 0 []], hold := List.replicate 3 (report .steer 0) } }
    s.exu.inFlight.length ≤ 16 ∧ s.exu.hold.length ≤ 32 ∧ s.readRegister 5 = 0x00050C23 ∧
    (0x15 : BitVec 5).toNat / 4 = (5 : Fin 8).val ∧ s.readByte 0x15 = 0x0C ∧ s.readRegister 4 = 0 ∧
    s.readRegister 0 = 0x07400001 := by decide +kernel

/-- Entries of the tables, written out from section 11.4: a STATIONS record in a handoff with every optional part but a
forward peer, one in LEFT, a PEERS record, a rule and a profile after power-on, a flow, an address and free marks. -/
theorem test_table_entries :
    let r : Station := { station 0x0A0B0C0D0E0F .offering with
      radio := .b, profile := some 3, rate := 0x1234, runOn := 2, requery := 4, nextQuery := 0x01020304, used := 90
      bonus := 15, day := some 9, bytes := 0x10000, spent := true, gate := .listedOnly, lastGame := some 0x0A000000
      arms := #v[some ⟨7, 0x05060708⟩, none, none, none], departed := true
      handoff := some ⟨⟨0, 0x0102⟩, 5, 3, 0, 0, none, false, none, []⟩
      query := some ⟨[⟨1, true, none, 0, false⟩, ⟨2, false, none, 0, false⟩], 0⟩, held := some [] }
    let left : Station := { station macA .left with forward := some ⟨6, 7000, none⟩ }
    let s := (live.setSta 2 r).setSta 127 left
    s.entryBytes 0 2 = [2, 3, 0x0A, 0x0B, 0x0C, 0x0D, 0x0E, 0x0F, 3, 3, 0x34, 0x12, 0x50, 0xFB, 2, 4, 4, 3, 2, 1, 90, 0, 15, 0,
      9, 0, 0, 0, 0, 0, 1, 0, 2, 0x7F, 0, 0, 0, 0x0A, 7, 8, 7, 6, 5, 255, 0, 0, 0, 0, 255, 0, 0, 0, 0, 255, 0, 0, 0, 0,
      5, 3, 2, 1, 0x12, 0] ∧
    (s.entryBytes 0 127).drop 58 = [6, 0, 0, 0, 0, 0] ∧ byteAt (s.entryBytes 0 127) 33 = 0x80 ∧
    meshed.entryBytes 4 0 = [1, 2, 0, 0, 0, 0, 0x11, 0x62, 3, 1, 0x94, 0x11, 0, 0, 1, 0, 0, 0x18, 0, 0, 0, 0, 0, 0, 0, 0, 0, 0,
      0, 0, 0, 0] ∧
    meshed.entryBytes 4 1 = 255 :: List.replicate 31 0 ∧ live.entryBytes 1 1023 = 255 :: List.replicate 63 0 ∧
    live.entryBytes 5 255 = 255 :: List.replicate 15 0 ∧
    live.entryBytes 2 63 = List.replicate 25 0 ++ [0xFF, 0xFF, 0, 0, 0, 60, 0, 0, 8] ++ List.replicate 7 0
      ++ [1, 3, 0, 60, 0] ++ List.replicate 18 0 ∧
    live.entryBytes 3 15 = [0, 0] ++ (List.replicate 7 [0xA0, 5]).flatten ++ [0x20, 0x4E, 0, 0] ++ List.replicate 21 0
      ++ [1] ++ List.replicate 86 0 ∧
    State.entryBytes { live with ups := { live.ups with map := [.missing, .present] } } 6 1 = [2] := by decide +kernel

theorem witness_ExchangeOrdersAreAnswered :
    ((given running 0x04 []).headOrder .exu = some (order 0x04 []) ∧ definedKind 0x04 = false ∧
      answers .unknownOrder (given running 0x04 []) = ans .unknownOrder []) ∧
    (given running 0x00 []).freshHead .exu 0x00 = some (order 0x00 []) ∧
    answers .nop (given running 0x00 []) = ans .ok [] ∧
    (answers .engineInfo (given running 0x01 [])).map (fun a => a.results.length) = [24] ∧
    answers .readTable (given running 0x02 ([7] ++ le 2 0 ++ le 2 1 ++ le 4 64 ++ le 4 512)) = ans .badParam [] ∧
    answers .readTable (given running 0x02 ([0] ++ le 2 0 ++ le 2 1 ++ le 4 63 ++ le 4 512)) = ans .areaError [] ∧
    (out (exec .readTable (given running 0x02 ([0] ++ le 2 0 ++ le 2 1 ++ le 4 64 ++ le 4 512)))).exu.tableWork.isSome = true ∧
    answers .readMore (given running 0x03 (le 4 64 ++ le 4 512)) = ans .sequence [] ∧
    answers .readMore (more 2 64 512) = ans .sequence [] ∧ answers .readMore (more 3 64 0) = ans .badParam [] ∧
    answers .readMore (more 3 63 512) = ans .areaError [] ∧
    (out (exec .readMore (more 3 64 512))).exu.tableWork.isSome = true := by decide +kernel

/-! ## Frames, flows and queues -/

/-- A frame of 60 bytes or more: destination, source, ether type, payload. -/
def frame (dest src : Mac) (type : Nat) (payload : List Byte) : List Byte :=
  let f := macBytes dest ++ macBytes src ++ be 2 type ++ payload
  if f.length < 60 then pad 60 f else f

/-- An IPv4 datagram of UDP from 192.168.1.50:50002 to 198.51.100.7:27015. -/
def udp4 : List Byte := [0x45, 0] ++ be 2 28 ++ be 4 0 ++ [64, 17] ++ be 2 0 ++ [192, 168, 1, 50, 198, 51, 100, 7]
  ++ be 2 50002 ++ be 2 27015 ++ be 4 0

/-- A packet of IPv6 without ports. -/
def ip6 : List Byte := [0x60, 0, 0, 0] ++ be 2 0 ++ [59, 64] ++ List.replicate 15 0 ++ [1] ++ List.replicate 15 0 ++ [2]

/-- A frame in a port's receive store, waiting for a stage. -/
def store (s : State) (p : PortId) (x : Ingress) : State := s.setIngress p (some x)

def ingress (stage : Stage) (f : List Byte) : Ingress := ⟨stage, f, -70, none, none, none, .normal, false, false, []⟩

theorem witness_PortIsSetAndItsCountersRead :
    answers .setPort (given live 0x10 [5]) = ans .badParam [] ∧
    ((out (exec .setPort (given live 0x10 ([1, 1] ++ le 2 0 ++ le 2 5000)))).port .wan).config.overhead = 5000 ∧
    ((out (exec .setPort (given live 0x10 ([2, 1] ++ le 2 0 ++ le 2 5000)))).port .radioA).config.overhead = 1000 ∧
    (answers .setPort (given live 0x10 [4, 1])).map (fun a => a.results) = [[4, 1, 0, 0]] ∧
    ((live.port .wan).enabled = true ∧ (answers .setPort (given live 0x10 [1, 0])) = ans .ok [1, 0, 0, 0]) ∧
    ((out (exec .setPort (given live 0x10 [1, 0]))).port .wan).enabled = false ∧
    ((out (exec .setPort (given live 0x10 [2, 1, 0, 0]))).port .radioA).config.rate = 1 ∧
    answers .portStats (given live 0x11 [5, 0, 0, 0]) = ans .badParam [] ∧
    answers .portStats (given live 0x11 [0, 6, 0, 0]) = ans .badParam [] ∧
    answers .portStats (given live 0x11 [0, 0, 2, 0]) = ans .badParam [] ∧
    answers .portStats (given (live.count .mesh .update .pool) 0x11 [4, 5, 1, 1]) =
      ans .ok (le 4 0 ++ le 4 0 ++ le 4 0 ++ le 4 0 ++ le 4 1 ++ le 4 0 ++ le 4 0) ∧
    answers .portStats (given live 0x11 [4, 5, 0, 0]) = ans .ok (le 4 0 ++ le 4 0) := by decide +kernel

theorem witness_IngressStagesOneAndTwo :
    let f := frame macB macA 0x0801 []
    ((running.port .wan).enabled = false ∧ ((out (exec (.acceptance .wan f 0) running)).port .wan).ingress = none) ∧
    ((store live .wan (ingress .ends f)).port .wan).ingress.isSome = true ∧
    ((live.port .wan).ingress = none ∧ (live.port .wan).enabled = true) ∧
    ((out (exec (.acceptance .wan (f.take 59) 0) live)).port .wan).stats.get 3 = { ClassStats.zero with length := 1 } ∧
    (f.length = 60 ∧ ((out (exec (.acceptance .wan f 0) live)).port .wan).ingress = some { ingress .ends f with sample := 0 }) ∧
    (let g := frame macB macA 0x9A21 []
     (out (exec (.acceptance .mesh g 0) live)).mlc.frames = [g] ∧ (out (exec (.acceptance .wan g 0) live)).mlc.frames = []) ∧
    (let s := store live .radioA (ingress .ends f)
     s.sourceOn .a (frameSource f) = none ∧
     ((out (exec (.endResolution .radioA) s)).port .radioA).stats.get 3 = { ClassStats.zero with unknownSource := 1 }) ∧
    (let s := store (sta0 live .active) .radioA (ingress .ends f)
     s.sourceOn .a (frameSource f) = some 0 ∧
     ((out (exec (.endResolution .radioA) s)).sta 0).signal = some (-1190) ∧
     ((out (exec (.endResolution .radioA) s)).port .radioA).ingress.map (fun x => x.source) = some (some 0)) ∧
    (let s := store live .wan (ingress .ends f)
     (out (exec (.endResolution .wan) s)).frp.addresses.get 0 = some ⟨macA, .wan, 5000⟩) := by decide +kernel

/-- R33: MacInv of reset, where no MAC has a place, and the two ends of frames: a station in LEFT is no source but a
destination, an address entry gives its port, and a group address nothing. -/
theorem witness_EndsOfAFrame :
    MacInv State.reset ∧ (live.sourceOn .a macA = none ∧ live.destinationOf macA = (none, none)) ∧
    ((sta0 live .withdrawing).sourceOn .a macA = some 0 ∧ (sta0 live .withdrawing).sourceOn .b macA = none) ∧
    ((sta0 live .left).sourceOn .a macA = none ∧ (sta0 live .left).destinationOf macA = (some (0, .left), none)) ∧
    (live.learn macA .wan).destinationOf macA = (none, some .wan) ∧
    live.destinationOf broadcastMac = (none, none) := by
  refine ⟨⟨fun i j h => absurd ?_ h, fun i j e f h => ?_, fun i e j h => ?_⟩, by decide +kernel⟩
  · simp [State.sta, State.reset, Stt.reset, Station.free]
  · simp [State.reset, Frp.reset] at h
  · simp [State.reset, Frp.reset] at h

/-- The address table with one entry at 0, last seen at 5000 ms, and the checks of a whole second due at a time. -/
def aged (now : Ms) : State := { live with
  frp := { live.frp with agingDue := true, addresses := put (.replicate 256 none) 0 (some ⟨macA, .wan, 5000⟩) }
  flc := { live.flc with agingDue := true, lastGame := some 5000 }
  sck := { live.sck with ms := now } }

theorem witness_AddressesAreLearnedAndAged :
    (sta0 live .active).findMac macA = some 0 ∧ ((sta0 live .active).learn macA .wan).frp.addresses.get 0 = none ∧
    (live.findMac macA = none ∧ live.findAddr macA = none ∧ live.frp.addresses.get 0 = none) ∧
    ((aged 5100).learn macA .mesh).frp.addresses.get 0 = some ⟨macA, .mesh, 5100⟩ ∧
    ((aged 305000).frp.agingDue = true ∧ (out (exec .addressAging (aged 305000))).frp.addresses.get 0 = none) ∧
    (out (exec .addressAging (aged 304999))).frp.addresses.get 0 = some ⟨macA, .wan, 5000⟩ ∧
    ((aged 3605000).flc.agingDue = true ∧ (out (exec .flowAging (aged 3605000))).flc.lastGame = none) ∧
    (out (exec .flowAging (aged 3604999))).flc.lastGame = some 5000 := by decide +kernel

/-- A queued copy of a class with a cost. -/
def copy (c : TClass) (cost : Nat) : Copy := ⟨frame macB macA 0x0801 [], c, none, none, false, 24, cost⟩

/-- A port READY with copies in its queues, CTRL first. -/
def loaded (q : Vector (List Copy) 6) (bucket : Int) : Port := { on .radioA with queues := q, bucket := bucket }

/-- A port that sends a copy. -/
def sending : Port := { on .radioA with tx := .sending, onLink := some ⟨copy .game 100, none⟩ }

/-- R41: in a full table the entry seen longest ago goes, the lowest of equals; else the lowest free entry is taken. -/
theorem witness_OldestAddressIsReplaced :
    let entry := fun (k : Nat) (t : Ms) => some (⟨BitVec.ofNat 48 (0x020000001000 + k), .wan, t⟩ : AddrEntry)
    let full : Vector (Option AddrEntry) 256 :=
      Vector.ofFn fun k : Fin 256 => entry k.val (if k.val = 7 ∨ k.val = 9 then 4000 else 4500)
    let s := { live with frp := { live.frp with addresses := full } }
    let holes := { live with frp := { live.frp with addresses := put (put full 5 none) 8 none } }
    (s.findMac macA = none ∧ s.findAddr macA = none ∧ (full.toList.all Option.isSome) = true) ∧
    ((s.learn macA .mesh).frp.addresses.get 7 = some ⟨macA, .mesh, 5000⟩ ∧
      (s.learn macA .mesh).frp.addresses.get 9 = full.get 9) ∧
    (holes.learn macA .mesh).frp.addresses.get 5 = some ⟨macA, .mesh, 5000⟩ := by decide +kernel

theorem witness_ReceiveNoticesSamplesAndTheLink :
    ((sta0 live .active).sourceOn .a macA = some 0 ∧
      ((out (exec (.rateNotice .a macA 0) (sta0 live .active))).sta 0).rate = 1) ∧
    ((sta0 live .reserved).sourceOn .a macA = none ∧ (sta0 live .active).sourceOn .b macA = none) ∧
    (let s := live.setListen [⟨macA, 1, 5300, none⟩]
     (out (exec (.overheardSample macA (-70)) s)).hoc.listen = [⟨macA, 1, 5300, some (-1120)⟩]) ∧
    ((running.port .wan).tx = .notReady ∧ ((out (exec (.linkReady .wan) running)).port .wan).tx = .ready) ∧
    ((live.port .wan).tx ≠ .notReady ∧ ((out (exec (.linkReady .wan) live)).port .wan).opportunity = false) ∧
    (let s := live.setPort .radioA sending
     (s.port .radioA).tx = .sending ∧ (s.port .radioA).onLink = some ⟨copy .game 100, none⟩ ∧
     ((out (exec (.transmitCompletion .radioA) s)).port .radioA).stats.get 1 =
       { ClassStats.zero with framesSent := 1, bytesSent := 60 }) ∧
    (let s := live.setPort .radioA { on .radioA with tx := .notReady, ghosts := 1 }
     (s.port .radioA).tx ≠ .sending ∧ (s.port .radioA).ghosts ≠ 0 ∧
     (out (exec (.transmitCompletion .radioA) s)).frp.free = 6145) ∧
    ((live.port .radioA).tx ≠ .sending ∧ (live.port .radioA).ghosts = 0 ∧
      (out (exec (.transmitCompletion .radioA) live)).frp.free = 6144) := by decide +kernel

/-- A flow of the datagram of `udp4` in the table. -/
def withFlow (s : State) (c : TClass) (k : Option StaIx) : State :=
  match ipInfo (frame macB macA 0x0800 udp4) with
  | some ip => s.placeFlow ⟨ip.key, k, c, .unmatched, false, 4000, 4000, 100⟩
  | none => s

theorem witness_FlowLookupSearchesTheMatchList :
    let f := frame macB macA 0x0800 udp4
    (let s := store live .wan (ingress .flow (frame macB macA 0x0801 []))
     ipInfo (frame macB macA 0x0801 []) = none ∧
     ((out (exec (.flowLookup .wan) s)).port .wan).ingress.map (fun x => x.stage) = some .gate) ∧
    ((ipInfo f).map (fun ip => (ip.source, ip.sourcePort, ip.destPort)) = some ((0xC0A80132 : BitVec 128) <<< 96, (50002 : Half), (27015 : Half))) ∧
    (let s := store live .wan { ingress .flow f with dest := some (0, .left) }
     (out (exec (.flowLookup .wan) s)).countFlows (fun _ => true) = 0) ∧
    (let s := store live .wan (ingress .flow f)
     (∀ i, (ingress .flow f).dest ≠ some (i, .left)) ∧ (out (exec (.flowLookup .wan) s)).countFlows (fun _ => true) = 1) ∧
    (let s := store (withFlow live .game none) .wan (ingress .flow f)
     (out (exec (.flowLookup .wan) s)).countFlows (fun x => x.bytes == 160 && x.lastSeen == 5000) = 1 ∧
     ((out (exec (.flowLookup .wan) s)).port .wan).ingress.map (fun x => x.cls) = some .game) := by decide +kernel

/-- A rule that matches the datagram of `udp4`. -/
def udpRule (stage : RuleStage) (c : Response) : Rule := { Rule.clear with
  enabled := true, stage := stage, armGroup := 7, protoValue := 17, protoMask := 0xFF, family := .ipv4
  addr := 0xC6336407 <<< 96, prefixLen := 32, portLow := 27015, portHigh := 27015, response := c, cls := .game
  lengthLow := 60, lengthHigh := 2048, report := true, arm := true, armTime := 60 }

/-- A search for the datagram of `udp4`, of station 0 or of none. -/
def searchOf (k : Option StaIx) : Search :=
  ⟨⟨4, 17, 0xC0A80132 <<< 96, 0xC6336407 <<< 96, 50002, 27015, 0⟩, 60, .wan, k, macA, k.isSome⟩

/-- The match list (R54 to R59): a rule that matches, one that does not by a bit of its prefix, each response, the hit with
its report and its arming, a stage-TWO rule before and after, and the placement of a flow over its key. -/
theorem witness_MatchListIsSearched :
    let s := sta0 live .active
    let armed := { (station macA .active) with arms := #v[some ⟨7, 5001⟩, none, none, none] }
    let spent := { (station macA .active) with arms := #v[some ⟨7, 5000⟩, none, none, none] }
    let with_ := fun (c : Response) => { s with flc := { s.flc with rules := put s.flc.rules 0 (udpRule .one c) } }
    s.ruleMatches (searchOf (some 0)) (udpRule .one .terminal) = true ∧
    s.ruleMatches (searchOf none) { udpRule .one .terminal with addr := 0xC6336406 <<< 96 } = false ∧
    s.ruleMatches (searchOf none) { udpRule .one .terminal with addr := 0xC6336406 <<< 96, prefixLen := 31 } = true ∧
    s.ruleMatches (searchOf (some 0)) (udpRule .two .terminal) = false ∧
    (s.setSta 0 armed).ruleMatches (searchOf (some 0)) (udpRule .two .terminal) = true ∧
    ((((s.setSta 0 spent).examineFor (searchOf (some 0)) (udpRule .two .terminal)).sta 0).arms.get 0 = none) ∧
    (State.searchFrom (searchOf none) [0] (with_ .terminal)).2 = .classed .game false (.rule 0) ∧
    (State.searchFrom (searchOf none) [0] (with_ .drop)).2 = .dropped ∧
    (State.searchFrom (searchOf none) [0] (with_ .pass)).2 = .classed .normal false .unmatched ∧
    (State.searchFrom (searchOf none) [1] (with_ .drop)).2 = .classed .normal false .unmatched ∧
    (((s.ruleHit (searchOf (some 0)) 63 (udpRule .one .pass)).sta 0).arms.get 0 = some ⟨7, 65000⟩ ∧
      (s.ruleHit (searchOf (some 0)) 63 (udpRule .one .pass)).exu.arrivals.length = 1) ∧
    ((s.ruleHit (searchOf none) 63 { udpRule .one .pass with report := false }).flc.rules.get 63).hits = 1 ∧
    (withFlow (withFlow s .game none) .live none).countFlows (fun f => f.cls == .live) = 1 ∧
    (withFlow (withFlow s .game none) .live none).countFlows (fun _ => true) = 1 := by decide +kernel

theorem witness_GatesWithholdAndBytesAreCounted :
    let f := frame macB macA 0x0800 udp4
    (let s := store live .localPort (ingress .gate f)
     ((out (exec (.gateCheck .localPort) s)).port .localPort).ingress.map (fun x => x.stage) = some .activity) ∧
    (let t := (sta0 live .active).setSta 0 { station macA .active with gate := .blocked }
     let x := { ingress .gate f with source := some 0, cls := .normal }
     (store t .radioA x).liveSource x = some 0 ∧ t.gatesPass x = false ∧
     ((out (exec (.gateCheck .radioA) (store t .radioA x))).port .radioA).stats.get 3 = { ClassStats.zero with gate := 1 } ∧
     ((out (exec (.gateCheck .radioA) (store t .radioA x))).port .radioA).ingress.map (fun y => y.localOnly) = some true ∧
     ((out (exec (.gateCheck .radioA) (store t .radioA { x with entry := some .wan }))).port .radioA).ingress = none) ∧
    (let x := { ingress .activity f with source := some 0 }
     (store (sta0 live .active) .radioA x).liveSource x = some 0 ∧
     ((out (exec (.activityByteCounting .radioA) (store (sta0 live .active) .radioA x))).sta 0).bytes = 60 ∧
     ((out (exec (.activityByteCounting .radioA) (store (sta0 live .active) .radioA { x with listed := true }))).sta 0).bytes
       = 0) := by decide +kernel

theorem witness_FrameGivesItsNormalizedFlowKey :
    (∃ x, ipInfo (frame macB macA 0x0800 udp4) = some x ∧ frameType (frame macB macA 0x0800 udp4) = 0x0800 ∧
      x.source.toNat < x.dest.toNat ∧ x.key.bytes.length = 38) ∧
    (∃ x, ipInfo (frame macB macA 0x86DD ip6) = some x ∧ frameType (frame macB macA 0x86DD ip6) ≠ 0x0800 ∧
      x.source.toNat < x.dest.toNat ∧ x.version = 6) ∧
    ¬((5 : BitVec 128).toNat < (5 : BitVec 128).toNat ∨ ((5 : BitVec 128).toNat = (5 : BitVec 128).toNat ∧
      (2 : Half).toNat ≤ (1 : Half).toNat)) :=
  ⟨⟨⟨4, 17, 0xC0A80132 <<< 96, 0xC6336407 <<< 96, 50002, 27015, 0⟩, by decide +kernel⟩,
    ⟨⟨6, 59, 1, 2, 0, 0, 0⟩, by decide +kernel⟩, by decide⟩

/-- R45: the ports and the DSCP of a first fragment, the ports of a later one, of a protocol without ports and of a frame
that ends before them; a header length of 4 words and a version that is not the ether type's. -/
theorem witness_IpHeadersAreRead :
    let v4 := fun (b0 b1 frag proto : Byte) => [b0, b1] ++ be 2 28 ++ [0, 0, 0, frag] ++ [64, proto] ++ be 2 0
      ++ [192, 168, 1, 50, 198, 51, 100, 7] ++ be 2 50002 ++ be 2 27015
    let ports := fun (l : List Byte) =>
      (ipInfo (macBytes macB ++ macBytes macA ++ be 2 0x0800 ++ l)).map fun x => (x.sourcePort, x.destPort)
    let f6 := macBytes macB ++ macBytes macA ++ be 2 0x86DD ++ [0x6F, 0xD0] ++ List.replicate 4 0 ++ [6, 64]
      ++ List.replicate 32 1 ++ be 2 80 ++ be 2 443
    ports (v4 0x45 0 0 17) = some (50002, 27015) ∧ ports (v4 0x45 0 1 17) = some (0, 0) ∧
    ports (v4 0x45 0 0 1) = some (0, 0) ∧ ports ((v4 0x45 0 0 6).take 23) = some (0, 0) ∧
    ports (v4 0x44 0 0 17) = none ∧ ports (v4 0x65 0 0 17) = none ∧ ports (v4 0x47 0 0 17) = none ∧
    (ipInfo (macBytes macB ++ macBytes macA ++ be 2 0x0800 ++ v4 0x45 0xB8 0 17)).map (fun x => x.dscp) = some 46 ∧
    (ipInfo f6).map (fun x => (x.protocol, x.dscp, x.sourcePort, x.destPort)) = some (6, 63, 80, 443) ∧
    ipInfo (f6.take 53) = none ∧
    (let s := store live .wan (ingress .flow (frame macB macA 0x0801 []))
     ((out (exec (.flowLookup .wan) s)).port .wan).ingress.map (fun x => (x.cls, x.listed)) = some (.normal, false)) := by
  decide +kernel

/-- A frame toward station 0 waiting for stage 6. -/
def toward (s : State) (st : StaState) : State :=
  store (s.setSta 0 { station macA st with
    held := if st = .moving ∨ st = .withdrawing then some [] else none
    forward := if st = .left then some ⟨1, 7000, none⟩ else none }) .wan
    { ingress .destination (frame macA macB 0x0801 []) with dest := some (0, st) }

theorem witness_DestinationResolutionRoutesTheFrame :
    (let x := ingress .destination (frame macB macA 0x0801 [])
     (store live .wan x).liveDest x = none ∧
     ((out (exec (.destinationResolution .wan) (store live .wan x))).port .wan).ingress.map (fun y => y.copies.length) =
       some 2) ∧
    (let x := ingress .destination (frame macB macA 0x0801 [])
     ((out (exec (.destinationResolution .wan) (store running .wan x))).port .wan).ingress = none) ∧
    (let x := { ingress .destination (frame macA macB 0x0801 []) with dest := some (0, .active), localOnly := true }
     (store (sta0 live .active) .wan x).liveDest x = some 0) ∧
    (((out (exec (.destinationResolution .wan) (toward live .active))).port .radioA).queue .normal).length = 1 ∧
    ((out (exec (.destinationResolution .wan) (toward live .moving))).sta 0).held.map List.length = some 1 ∧
    (((out (exec (.destinationResolution .wan) (toward meshed .left))).port .mesh).queue .normal).length = 1 ∧
    ((out (exec (.destinationResolution .wan) (toward live .reserved))).port .wan).stats.get 3 =
      { ClassStats.zero with notHere := 1 } ∧
    (let x := { ingress .enqueue (frame macB macA 0x0801 []) with copies := [⟨.localPort, none, none, false⟩] }
     (((out (exec (.enqueue .wan) (store live .wan x))).port .localPort).queue .normal).length = 1) := by decide +kernel

/-- A frame whose destination record was freed while another record came to hold its MAC is flooded. -/
theorem witness_MacHeldByAnotherRecord :
    let x := { ingress .destination (frame macA macB 0x0801 []) with dest := some (1, .active) }
    (sta0 live .active).findMac macA = some 0 ∧ groupMac (frameDest x.frame) = false ∧
    ((sta0 live .active).copiesOf .wan x).map (fun c => c.port) = [.localPort, .mesh] := by decide +kernel

/-- The copies of a frame (R36, R37): to the entry's port, to none when it came from there, flooded, to a group, and toward a
station that has gone. -/
theorem witness_CopiesGoWhereTheAddressIs :
    let x := { ingress .destination (frame macB macA 0x0801 []) with entry := some .wan }
    let g := ingress .destination (frame 0xFFFFFFFFFFFF macA 0x0801 [])
    let gone := { ingress .destination (frame macB macA 0x0801 []) with dest := some (0, .active) }
    (groupMac (frameDest x.frame) = false ∧ (live.copiesOf .mesh x).map (fun c => c.port) = [.wan]) ∧
    live.copiesOf .wan x = [] ∧
    (live.copiesOf .wan { x with entry := none }).map (fun c => c.port) = [.localPort, .mesh] ∧
    (groupMac (frameDest g.frame) = true ∧
      (live.copiesOf .wan g).map (fun c => (c.port, c.broadcast)) =
        [(.localPort, false), (.radioA, true), (.radioB, true), (.mesh, false)]) ∧
    (live.findMac macB = none ∧ live.findAddr macB = none ∧
      (live.copiesOf .wan gone).map (fun c => c.port) = [.localPort, .mesh]) ∧
    (let s := live.learn macB .mesh
     s.findAddr macB = some 0 ∧ (s.copiesOf .wan gone).map (fun c => c.port) = [.mesh] ∧ s.copiesOf .mesh gone = []) := by
  decide +kernel

/-- A held frame of a class from station 1. -/
def heldOf (c : TClass) : Held := ⟨frame macA macB 0x0801 [], c, .radioA, some 1, false⟩

/-- The limits of a hold list (R38): 64 held, and the reserve of the pool. -/
theorem witness_HoldListsAreBounded :
    let s := fun n => live.setSta 0 { station macA .moving with held := some (List.replicate n (heldOf .normal)) }
    let low := fun n => { s 0 with frp := { (s 0).frp with free := n } }
    let taken := fun (t : State) (c : TClass) => (((t.holdFrame 0 (heldOf c)).sta 0).held.getD []).length
    taken (s 63) .normal = 64 ∧ taken (s 64) .normal = 64 ∧
    taken (low 256) .normal = 0 ∧ taken (low 257) .normal = 1 ∧ taken (low 1) .game = 1 ∧ taken (low 0) .ctrl = 0 := by
  decide +kernel

/-- R64: a held GAME frame counts for its source station when it leaves the hold list. -/
theorem test_held_game_frame_counts_for_its_source :
    let s := (sta0 live .active).setSta 1 (station macB .active)
    ((s.sta 1).lastGame = none) ∧
    (((State.releaseHeld .radioA (some 0) none [heldOf .game] s).1.sta 1).lastGame = some 5000) := by decide +kernel

/-- A frame offered to a queue. -/
def offered (c : TClass) : Offered := ⟨frame macB macA 0x0801 [], c, none, none, false, none, none, false⟩

/-- The pool with a number of free buffers. -/
def pool (n : Nat) : State := { live with frp := { live.frp with free := n } }

theorem witness_ClassQueueTakesOrDropsACopy :
    (running.enqueueNew .wan (offered .bulk)).2 = false ∧
    ((live.setPort .wan { on .wan with config := { PortConfig.default .wan with limits := #v[1, 1, 1, 1, 1, 1] }
                                       queues := .replicate 6 [copy .bulk 1] }).enqueueNew .wan (offered .bulk)).2 = false ∧
    ((pool 256).enqueueNew .wan (offered .bulk)).2 = false ∧ ((pool 0).enqueueNew .wan (offered .ctrl)).2 = false ∧
    ((pool 257).enqueueNew .wan (offered .bulk)).2 = true ∧ ((pool 1).enqueueNew .wan (offered .game)).2 = true := by
  decide +kernel

theorem test_cost_of_copies :
    copyCost .radioA 44 60 24 = 64 ∧ copyCost .wan 0 60 1000 = 1 ∧ copyCost .radioA 1000 2048 1 = 17384 ∧
    copyCost .radioA 0 60 4800 = 1 ∧ copyCost .localPort 0 2048 1 = 16544 := by decide

theorem witness_TransmitOpportunitySendsTheSchedulersChoice :
    let c := copy .ctrl 10
    let g := copy .game 100
    let n := copy .normal 100
    (let s := live.setPort .radioA { loaded #v[[c], [g], [], [n], [], []] 0 with opportunity := true }
     (s.port .radioA).opportunity = true ∧ (s.port .radioA).enabled = true ∧ (s.port .radioA).tx = .ready ∧
     ((out (exec (.transmitOpportunity .radioA) s)).port .radioA).onLink.map (fun l => l.copy) = some c) ∧
    (let s := live.setPort .radioA { on .radioA with opportunity := true }
     ((out (exec (.transmitOpportunity .radioA) s)).port .radioA).tx = .ready) ∧
    (loaded #v[[c], [g], [], [n], [], []] 0).choose.2 = some c ∧
    (loaded #v[[], [g], [], [n], [], []] 0).choose.2 = some g ∧ (loaded #v[[], [g], [], [n], [], []] 0).choose.1.bucket = -100 ∧
    (loaded #v[[], [g], [], [n], [], []] (-1)).choose.2 = some n ∧
    (loaded #v[[], [g], [], [], [], []] (-1)).choose.2 = some g ∧
    (loaded #v[[], [g], [], [], [], []] (-65500)).choose.1.bucket = -65535 ∧
    (loaded #v[[], [], [], [], [], []] 0).choose.2 = none := by decide +kernel

/-- The next-hop MAC of a copy without a next hop, toward the lowest peer record of the node, and toward none (R74, R127). -/
theorem witness_NextHopMacComesFromThePeerTable :
    let toward := fun n : Option Node => { copy .normal 100 with hop := n }
    let s := { meshed with mlc := { meshed.mlc with peers := #v[none, none, none, none, none, none, some (peer 7 macB)] } }
    s.hopMac (toward none) = none ∧
    (s.mlc.peers.get 6 = some (peer 7 macB) ∧ (∀ j < (6 : Fin 7), s.mlc.peers.get j = none) ∧
      s.hopMac (toward (some 7)) = some macB) ∧
    ((∀ k q, s.mlc.peers.get k = some q → q.node ≠ 0) ∧ s.hopMac (toward (some 0)) = none) := by
  refine ⟨by decide +kernel, ⟨by decide +kernel, by decide +kernel, by decide +kernel⟩, fun k q h => ?_, by decide +kernel⟩
  have : ∀ k : Fin 7, ∀ q ∈ (#v[none, none, none, none, none, none, some (peer 7 macB)] : Vector (Option Peer) 7).get k,
      q.node ≠ 0 := by decide +kernel
  exact this k q h

/-- R75: at share 300, 7 us add 2 with remainder 100, and 3 us more add 1 with remainder 0; a full bucket is clipped. -/
theorem test_bucket_example :
    let x := { on .radioA with bucket := 0 }
    ((x.advance 7).bucket = 2 ∧ (x.advance 7).remainder = 100) ∧
    (((x.advance 7).advance 10).bucket = 3 ∧ ((x.advance 7).advance 10).remainder = 0) ∧
    (({ x with bucket := 7999 } : Port).advance 7).bucket = 8000 ∧
    (({ x with bucket := 7999 } : Port).advance 7).remainder = 0 := by decide +kernel

theorem witness_RoundAlwaysChoosesAHead :
    let x := loaded #v[[], [], [], [copy .normal 17384], [], [copy .update 100]] 0
    (∀ k : Fin 4, 1 ≤ x.config.quanta.get k) ∧ (∀ k : Fin 4, ∀ c ∈ x.queue (drrClass k), c.cost ≤ 17384) ∧
    x.queue (drrClass 1) ≠ [] ∧ (Port.drrRound drrFuel x).2 = some (copy .update 100) ∧
    (x.queue (drrClass x.pointer) = [] ∧ x.drrVisit.2 = none ∧ x.drrVisit.1.pointer = 1) ∧
    (x.drrVisit.1.drrVisit.2 = none ∧ x.drrVisit.1.drrVisit.1.deficits.get 1 = x.config.quanta.get 1) ∧
    (let y : Port := { x with pointer := 3, quantumAdded := true, deficits := put x.deficits 3 100 }
     y.drrVisit.2 = some (copy .update 100) ∧ y.drrVisit.1.deficits.get 3 = 0 ∧ y.drrVisit.1.pointer = 3 ∧
     ({ y with deficits := put x.deficits 3 99 } : Port).drrVisit.2 = none) := by decide +kernel

/-- The parameters of SET_RULE: rule 63 for UDP to port 27015, GAME, with a report. -/
def ruleParams (index : Byte) : List Byte := [index, 1, 0, 0, 17, 0xFF, 0] ++ List.replicate 16 0 ++ [0] ++ le 2 27015 ++ le 2 27015
  ++ [0, 0, 0] ++ le 2 60 ++ le 2 2048 ++ List.replicate 7 0 ++ [0, 1, 0, 1, 0] ++ le 2 60

/-! ## Rules, stations, the clock -/

theorem witness_RulesAndFlowSettingsAreWritten :
    ruleOf (order 0x20 (ruleParams 64)) = none ∧ (ruleOf (order 0x20 (ruleParams 63))).map Prod.fst = some 63 ∧
    answers .setRule (given live 0x20 (ruleParams 64)) = ans .badParam [] ∧
    answers .setRule (given live 0x20 (ruleParams 63)) = ans .ok [63, 0, 0] ∧
    ((out (exec .setRule (given live 0x20 (ruleParams 63)))).flc.rules.get 63).cls = .game ∧
    answers .clearRule (given live 0x21 [64]) = ans .badParam [] ∧ answers .clearRule (given live 0x21 [63]) = ans .ok [63, 0, 0] ∧
    answers .setFlowTimes (given live 0x22 (le 2 0 ++ le 2 60 ++ le 2 300 ++ le 2 300 ++ le 2 4000)) =
      ans .ok (le 2 1 ++ le 2 60 ++ le 2 300 ++ le 2 300 ++ le 2 3600) ∧
    answers .setQuiet (given live 0x23 [0]) = ans .ok ([1, 1] ++ le 4 0xFFFFFFFF) ∧
    answers .setQuiet (given { live with flc := { live.flc with lastGame := some 4000 } } 0x23 [10]) =
      ans .ok ([10, 0] ++ le 4 1000) := by decide +kernel

/-- The parameters of ADMIT_STATION: MAC, port, profile NONE, rate 100, no used minutes. -/
def admitParams (m : Mac) (port : Byte) : List Byte := macBytes m ++ [port, 255] ++ le 2 100 ++ le 2 0 ++ [0]

theorem witness_AdmissionCreatesBindsOrRefuses :
    groupMac macA = false ∧ macA ≠ 0 ∧ macAt (order 0x30 (admitParams macA 2)).params 0 = macA ∧
    (order 0x30 (admitParams macA 2)).u8 6 = (portIx (radioPort .a)).val ∧ profileField 255 = some none ∧
    answers .admitStation (given live 0x30 (admitParams 0 2)) = ans .badParam [] ∧
    answers .admitStation (given live 0x30 (admitParams macA 4)) = ans .badParam [] ∧
    (live.findMac macA = none ∧ live.freeIndex = some 0 ∧ (live.port (radioPort .a)).enabled = true ∧
      answers .admitStation (given live 0x30 (admitParams macA 2)) = ans .ok [0, 0, 0]) ∧
    ((running.port (radioPort .a)).enabled = false ∧
      answers .admitStation (given running 0x30 (admitParams macA 2)) = ans .refusedState []) ∧
    ((sta0 live .moving).findMac macA = some 0 ∧
      answers .admitStation (given (sta0 live .moving) 0x30 (admitParams macA 2)) = ans .again []) ∧
    answers .admitStation (given (sta0 live .active) 0x30 (admitParams macA 2)) = [⟨7, .duplicate, 1, [0]⟩] := by
  decide +kernel

/-- R87: a record that begins spent gives ALLOWANCE_SPENT and a spent-change event before the membership notice. -/
theorem witness_AdmissionOfASpentStation :
    let s := (clocked live).setProfile 3 { Profile.reset with inUse := true, allowances := .replicate 7 60 }
    let t := out (exec .admitStation (given s 0x30 (macBytes macA ++ [2, 3] ++ le 2 100 ++ le 2 60 ++ [1])))
    (t.sta 0).spent = true ∧ t.exu.arrivals.map (fun r => (r.kind, r.body)) =
      [(.allowanceSpent, [3] ++ le 2 60 ++ le 2 60 ++ le 2 0 ++ [6] ++ le 4 9 ++ [1])] ∧
    t.pfe.triggers.map (fun x => (x.profile, x.cause)) = [(3, .spentChange), (3, .membership)] := by decide +kernel

theorem witness_AdmissionOfAReservedStation :
    let s := live.setSta 0 { station macA .reserved with profile := none, handoff := some ⟨⟨1, 2⟩, 1, 0, 9000, 0, none, false, none, []⟩ }
    s.findMac macA = some 0 ∧ (s.sta 0).state = .reserved ∧
    answers .admitStation (given s 0x30 (admitParams macA 2)) = ans .ok [0, 0, 0, 1] := by decide +kernel

theorem witness_BindTakesTheReservation :
    let s := meshed.setSta 0 { station macA .reserved with handoff := some ⟨⟨1, 2⟩, 1, 0, 9000, 0, none, false, none, []⟩ }
    (s.sta 0).handoff.isSome = true ∧ ((s.bind 0 .b none 24).sta 0).state = .active ∧
    ((s.bind 0 .b none 24).sta 0).profile = some 0 ∧ ((s.bind 0 .b (some 3) 24).sta 0).profile = some 3 ∧
    (((s.bind 0 .b none 24).sta 0).handoff.map fun h => (h.tries, h.wait, h.deadline)) = some (1, some 5100, 7000) ∧
    (s.bind 0 .b none 24).exu.arrivals.map (fun r => r.kind) = [.stationArrived] := by decide +kernel

theorem witness_AdmissionFindsNoRoom :
    let s := { live with stt := { live.stt with recs := .replicate 128 (station macB .active) } }
    s.findMac macA = none ∧ s.freeIndex = none ∧
    answers .admitStation (given s 0x30 (admitParams macA 2)) = ans .noRoom [] := by decide +kernel

theorem witness_DepartureFreesTheRecordAndLeavesNothing :
    (live.findMac macA = none ∧ answers .departStation (given live 0x31 (macBytes macA)) = ans .notFound []) ∧
    (answers .departStation (given (sta0 live .watched) 0x31 (macBytes macA)) = ans .ok [] ∧
      ((out (exec .departStation (given (sta0 live .watched) 0x31 (macBytes macA)))).sta 0).state = .free) ∧
    ((out (exec .departStation (given (sta0 live .moving) 0x31 (macBytes macA)))).sta 0).departed = true ∧
    answers .departStation (given (sta0 live .left) 0x31 (macBytes macA)) = ans .ok [] ∧
    answers .departStation (given (sta0 live .reserved) 0x31 (macBytes macA)) = ans .refusedState [] ∧
    (let r := { station macA .moving with profile := some 3, held := some [⟨[], .live, .wan, none, false⟩] }
     let mine := { copy .live 7 with station := some 0 }
     let s := (live.setSta 0 r).setPort .radioA (loaded #v[[], [], [mine, copy .live 9], [mine], [], []] 0)
     let t := s.freeStation 0
     t.frp.free = s.frp.free + 3 ∧ (t.port .radioA).queues = #v[[], [], [copy .live 9], [], [], []] ∧
     t.pfe.triggers = [⟨3, .membership, none, none⟩] ∧ (t.sta 0).state = .free) := by decide +kernel

theorem witness_StationsAreSetAndGrantedBonus :
    let set := fun (i p : Byte) => [i, p] ++ le 2 100 ++ le 2 10 ++ le 2 0
    let s := used0 (sta0 live .active)
    answers .setStation (given s 0x32 (set 128 0)) = ans .badParam [] ∧
    answers .setStation (given s 0x32 (set 0 16)) = ans .badParam [] ∧
    (profileField 255 = some none ∧ profileField 15 = some (some 15)) ∧
    answers .setStation (given s 0x32 (set 127 255)) = ans .notFound [] ∧
    answers .setStation (given (sta0 live .left) 0x32 (set 0 255)) = ans .again [] ∧
    answers .setStation (given s 0x32 (set 0 255)) = ans .ok [0, 0, 0] ∧
    answers .grantBonus (given s 0x33 ([2, 0] ++ le 2 5)) = ans .badParam [] ∧
    answers .grantBonus (given s 0x33 ([0, 128] ++ le 2 5)) = ans .badParam [] ∧
    answers .grantBonus (given s 0x33 ([1, 16] ++ le 2 5)) = ans .badParam [] ∧
    answers .grantBonus (given s 0x33 ([0, 127] ++ le 2 5)) = ans .notFound [] ∧
    answers .grantBonus (given (sta0 live .moving) 0x33 ([0, 0] ++ le 2 5)) = ans .again [] ∧
    ((s.sta 0).profile = some 0 ∧ (s.profile 0).inUse = true ∧ (s.profile 0).lock ≠ .fullLocked ∧
      answers .grantBonus (given s 0x33 ([0, 0] ++ le 2 5)) = ans .ok [1, 0, 5, 0, 0]) ∧
    answers .grantBonus (given live 0x33 ([1, 15] ++ le 2 5)) = ans .refusedState [] ∧
    answers .grantBonus (given (s.setProfile 0 { Profile.reset with inUse := true, lock := .fullLocked }) 0x33
      ([1, 0] ++ le 2 5)) = ans .locked [] ∧
    answers .grantBonus (given s 0x33 ([1, 0] ++ le 2 5)) = ans .ok [1, 0] := by decide +kernel

theorem witness_GrantsAreRefusedOrLocked :
    let one := [0, 0] ++ le 2 5
    ((((sta0 live .active).profile 0).inUse = false) ∧
      answers .grantBonus (given (sta0 live .active) 0x33 one) = ans .refusedState []) ∧
    answers .grantBonus (given (live.setSta 0 { station macA .watched with profile := none }) 0x33 one) = ans .refusedState [] ∧
    (let s := (sta0 live .active).setProfile 0 { Profile.reset with inUse := true, lock := .fullLocked }
     answers .grantBonus (given s 0x33 one) = ans .locked []) := by decide +kernel

theorem witness_ClockIsSetReadAndAdvanced :
    let at_ := fun (day : Nat) (w : Byte) (m : Nat) (sec : Byte) => le 4 day ++ [w] ++ le 2 m ++ [sec]
    answers .setClock (given live 0x40 (at_ 9 7 0 0)) = ans .badParam [] ∧
    answers .setClock (given live 0x40 (at_ 9 0 1440 0)) = ans .badParam [] ∧
    answers .setClock (given live 0x40 (at_ 9 0 0 60)) = ans .badParam [] ∧
    (live.sck.set = false ∧ answers .setClock (given live 0x40 (at_ 9 6 1439 59)) = ans .ok ([0, 1] ++ le 4 0)) ∧
    ((clocked live).sck.set = true ∧ (clocked live).sck.day < 10 ∧
      answers .setClock (given (clocked live) 0x40 (at_ 10 0 0 0)) = ans .ok ([1, 0] ++ le 4 9)) ∧
    (¬(clocked live).sck.day < 9 ∧ answers .setClock (given (clocked live) 0x40 (at_ 9 6 1439 0)) = ans .ok ([0, 0] ++ le 4 9)) ∧
    answers .clockInfo (given live 0x41 []) = ans .ok ([0, 0, 0, 0, 0, 0, 0, 0, 0] ++ le 4 5000) ∧
    answers .clockInfo (given (clocked live) 0x41 []) = ans .ok ([1] ++ le 4 9 ++ [6] ++ le 2 1439 ++ [0] ++ le 4 5000) ∧
    (let s := { clocked live with sck := { (clocked live).sck with minuteDue := true } }
     s.sck.minuteDue = true ∧ s.sck.minute = 1439 ∧ (out (exec .minuteEvent s)).sck.day = 10 ∧
     (out (exec .minuteEvent s)).stt.minutes = [.rollover ⟨10, 0, 0, 0⟩ 5000]) ∧
    (let s := { clocked live with sck := { (clocked live).sck with minuteDue := true, minute := 1438 } }
     s.sck.minute < 1439 ∧ (out (exec .minuteEvent s)).sck.minute = 1439) ∧
    (let s := { live with sck := { live.sck with unsetDue := true } }
     s.sck.unsetDue = true ∧ (out (exec .unsetMinuteEvent s)).ups.minutes = [⟨none, 5000⟩]) := by decide +kernel

/-- R101, R107: a SET_CLOCK that is a day rollover recomputes the spent flags in its own step, after the triggers. -/
theorem test_set_clock_recomputes_spent :
    let s := (clocked live).setProfile 0 { Profile.reset with inUse := true, allowances := .replicate 7 60 }
    let t := s.setSta 0 { station macA .active with used := 60 }
    let u := out (exec .setClock (given t 0x40 (le 4 10 ++ [0] ++ le 2 0 ++ [0])))
    (u.sta 0).spent = true ∧ u.pfe.triggers.length = 17 ∧ (u.pfe.triggers.getLast?.map fun x => x.cause) = some .spentChange ∧
    u.stt.minutes = [.setRollover 10] := by decide +kernel

/-- R119: the spent-change event given after the rollover's triggers is taken before them or after them, and R115: what
is given after an order's trigger is taken after it. -/
theorem test_rollover_evaluation_and_spent_change_in_either_order :
    let s := (live.triggerAll .setRollover none).triggerFor 0 .spentChange
    let next := fun (w : TriggerPath) (s : State) => (nextTrigger w s.pfe.triggers).map fun r => (r.1.cause, r.2.length)
    next .station s = some (.spentChange, 16) ∧ next .clock s = some (.setRollover, 16) ∧
    next .order s = some (.setRollover, 16) ∧
    next .station ((live.triggerFor 0 .pause).triggerFor 0 .spentChange) = some (.pause, 1) ∧
    next .order ((live.triggerFor 0 .spentChange).triggerFor 0 .pause) = some (.pause, 1) := by decide +kernel

/-- A minute event at the Station Table, the bytes of station 0 at its profile's threshold. -/
def minuteAt (s : State) (k : MinuteKind) : State :=
  { (s.setSta 0 { station macA .active with bytes := 20000, used := 1439 }) with
    stt := { (s.setSta 0 { station macA .active with bytes := 20000, used := 1439 }).stt with minutes := [k] } }

theorem witness_MinutesAndNoticesReachTheRecords :
    (minuteAt (used0 (clocked live)) (.minute ⟨none, 5000⟩)).stt.minutes = [.minute ⟨none, 5000⟩] ∧
    ((out (exec .activeMinuteCount (minuteAt (used0 (clocked live)) (.minute ⟨none, 5000⟩)))).sta 0).used = 1440 ∧
    ((out (exec .activeMinuteCount (minuteAt (used0 (clocked live)) (.minute ⟨none, 5000⟩)))).sta 0).bytes = 0 ∧
    ((out (exec .dayRollover (minuteAt live (.rollover ⟨10, 0, 0, 0⟩ 5000)))).sta 0).bytes = 0 ∧
    ((out (exec .dayRollover (minuteAt live (.setRollover 10)))).sta 0).bytes = 20000 ∧
    ((out (exec .dayRollover (minuteAt live (.setRollover 10)))).sta 0).day = some 10 := by decide +kernel

/-- R107: an allowance of 60 minutes is spent at 60 used minutes and not at 59, and never while the clock is unset. -/
theorem test_spent_at_the_allowance :
    let s := (clocked live).setProfile 0 { Profile.reset with inUse := true, allowances := .replicate 7 60 }
    s.spentNow { station macA .active with used := 60 } = true ∧ s.spentNow { station macA .active with used := 59 } = false ∧
    s.spentNow { station macA .active with used := 60, bonus := 1 } = false ∧
    ((s.setSta 0 { station macA .active with used := 60 }).recomputeSpent 0).exu.arrivals.length = 1 ∧
    State.spentNow { s with sck := { s.sck with set := false } } { station macA .active with used := 60 } = false := by
  decide +kernel

/-- A notice at the Station Table. -/
def noticed (s : State) (n : Notice) : State := { s with stt := { s.stt with notices := [n] } }

theorem witness_NoticesReachTheRecords :
    let s := (sta0 live .active).setProfile 0 { Profile.reset with
      inUse := true, states := .replicate 6 ⟨.noGame, .blocked, .replicate 4 .clear⟩ }
    (noticed s (.stateChange 0)).stt.notices = [.stateChange 0] ∧
    ((out (exec .stateChangeNotice (noticed s (.stateChange 0)))).sta 0).gate = .noGame ∧
    ((out (exec .stateChangeNotice (noticed s (.useChange 0)))).sta 0).gate = .noGame ∧
    (out (exec .allowanceNotice (noticed s (.allowance 0)))).stt.notices = [] ∧
    ((s.sta 0).profile = some 0 ∧ (s.profile 0).inUse = true ∧ (live.sta 0).profile = none) := by decide +kernel

/-! ## Profiles -/

/-- The parameters of SET_PROFILE: number, allowances of 60, threshold, four windows of an end minute. -/
def profileParams (p : Byte) (stop : Nat) : List Byte := [p] ++ (List.replicate 7 (le 2 60)).flatten ++ le 4 20000
  ++ (List.replicate 4 ([0x7F] ++ le 2 0 ++ le 2 stop)).flatten

/-- The parameters of SET_PROGRAM: number, two states, initial state, state 0 OPEN and 1 BLOCKED, 0 to 1 when PAUSED. -/
def programParams (p initial : Byte) : List Byte := [p, 2, initial] ++ [0, 0, 0x88, 1] ++ List.replicate 6 0 ++ [3, 3, 0x89, 0]

/-- Profile 0 with a lock level. -/
def locked (l : Lock) : State := live.setProfile 0 { Profile.reset with inUse := true, lock := l }

theorem witness_ProfilesAndProgramsAreWritten :
    answers .setProfile (given live 0x50 (profileParams 16 1439)) = ans .badParam [] ∧
    answers .setProfile (given live 0x50 (profileParams 15 1440)) = ans .badParam [] ∧
    answers .setProfile (given (locked .programLocked) 0x50 (profileParams 0 1439)) = ans .locked [] ∧
    (out (exec .setProfile (given live 0x50 (profileParams 15 1439)))).pfe.triggers.length = 1 ∧
    answers .clearProfile (given live 0x52 [16]) = ans .badParam [] ∧
    answers .clearProfile (given (locked .programLocked) 0x52 [0]) = ans .locked [] ∧
    answers .clearProfile (given live 0x52 [15]) = ans .ok [15, 0] ∧
    answers .clearProfile (given (locked .unlocked) 0x52 [0]) = ans .ok [0, 0] ∧
    programOf (order 0x51 (programParams 0 2)) = none ∧ (programOf (order 0x51 (programParams 0 1))).isSome = true ∧
    answers .setProgram (given live 0x51 (programParams 16 1)) = ans .badParam [] ∧
    answers .setProgram (given live 0x51 (programParams 0 2)) = ans .badParam [] ∧
    answers .setProgram (given (locked .programLocked) 0x51 (programParams 0 1)) = ans .locked [] ∧
    answers .setProgram (given live 0x51 (programParams 0 1)) = ans .ok [0, 1] ∧
    (out (exec .setProgram (given live 0x51 (programParams 0 1)))).stt.notices = [.stateChange 0] ∧
    answers .restartProfile (given live 0x55 [16]) = ans .badParam [] ∧
    answers .restartProfile (given (locked .fullLocked) 0x55 [0]) = ans .locked [] ∧
    (out (exec .restartProfile (given (locked .programLocked) 0x55 [0]))).pfe.triggers.length = 1 := by decide +kernel

/-- R113: a state count of 0 and 7, a level of 4, and a transition to a state that is none; bits 6 to 4 are not judged. -/
theorem witness_ProgramsAreJudged :
    let p := fun (count level cond dest : Byte) => programOf (order 0x51 ([0, count, 0] ++ [level, 0, cond, dest] ++ List.replicate 6 0))
    p 0 0 0 0 = none ∧ p 7 0 0 0 = none ∧ (p 6 3 0 0).isSome = true ∧ p 1 4 0 0 = none ∧
    (p 1 0 0x8C 0).isSome = true ∧ p 1 0 0x8D 0 = none ∧ p 1 0 0x80 1 = none ∧ (p 1 0 0x0D 9).isSome = true ∧
    (p 1 0 0xF0 0).isSome = true := by decide +kernel

theorem witness_PauseFlagAndLockLevel :
    answers .pauseProfile (given live 0x53 [16]) = ans .badParam [] ∧
    answers .resumeProfile (given (locked .fullLocked) 0x54 [0]) = ans .locked [] ∧
    answers .pauseProfile (given live 0x53 [0]) = ans .ok [0, 1, 1, 0] ∧
    answers .resumeProfile (given live 0x54 [0]) = ans .ok [0, 0, 0, 0] ∧
    answers .raiseLock (given live 0x56 [0, 3]) = ans .badParam [] ∧
    answers .raiseLock (given live 0x56 [16, 0]) = ans .badParam [] ∧
    answers .raiseLock (given live 0x56 [15, 1]) = ans .ok [1] ∧
    answers .raiseLock (given (locked .fullLocked) 0x56 [0, 1]) = ans .ok [2] := by decide +kernel

/-- A program that goes round its states for ever: each state moves to the next when the profile is not paused. -/
def cyclic : Profile := { Profile.reset with
  inUse := true, count := 6
  states := Vector.ofFn fun k : Fin 6 => ⟨.opened, .opened, #v[⟨true, .notPaused, k + 1⟩, .clear, .clear, .clear]⟩ }

theorem witness_EvaluationMovesAtMostSixTimes :
    let s := (live.setProfile 0 cyclic).triggerFor 0 .pause
    s.pfe.triggers = [⟨0, .pause, none, none⟩] ∧
    (nextTrigger s.freeWay s.pfe.triggers).isSome = true ∧
    (out (exec .evaluation s)).exu.arrivals.map (fun r => r.kind) = List.replicate 6 .profileState ++ [.profileCycle] ∧
    ((out (exec .evaluation s)).profile 0).current = 0 ∧
    live.pfe.triggers = [] ∧
    (let t := (live.setProfile 0 { cyclic with paused := true }).triggerFor 0 .pause
     firstEligible (t.condHolds ⟨0, .pause, none, none⟩ (t.profile 0)) ((t.profile 0).states.get 0) = none) := by
  decide +kernel

theorem witness_WindowTestFollowsStartAndEnd :
    live.sck.set = false ∧ (clocked live).sck.set = true ∧
    (clocked live).windowOpen ⟨0x7F, 960, 1080⟩ (0, 1079) = true ∧ (clocked live).windowOpen ⟨0x7F, 960, 1080⟩ (0, 1080) = false ∧
    (clocked live).windowOpen ⟨0x7F, 1260, 420⟩ (0, 419) = true ∧ (clocked live).windowOpen ⟨0x7F, 600, 600⟩ (0, 600) = false ∧
    live.windowOpen ⟨0x7F, 960, 1080⟩ (0, 1000) = false := by decide +kernel

/-! ## The mesh -/

/-- A mesh control frame from node 1 with a receiver, kind, sequence number and body. -/
def control (sender receiver kind : Byte) (seq : Nat) (body : List Byte) : List Byte :=
  pad (max 60 (22 + body.length)) (macBytes 0x020000000010 ++ macBytes 0x020000000011 ++ be 2 0x9A21
    ++ [1, kind, sender, receiver] ++ be 2 seq ++ be 2 body.length ++ body)

/-- A mesh control frame handed over. -/
def handed (s : State) (f : List Byte) : State := { s with mlc := { s.mlc with frames := [f] } }

/-- The discard counts after the frame handed over. -/
def discards (s : State) (f : List Byte) : Discards := (out (exec .meshControlFrame (handed s f))).mlc.discards

def nodeParams (n : Byte) (type : Nat) (enable : Byte) : List Byte := [n] ++ macBytes 0x020000000010 ++ le 2 type ++ [enable]

/-- The seven peers of a full mesh, none of them node 7. -/
def fullPeers : Vector (Option Peer) 7 :=
  Vector.ofFn fun k : Fin 7 => some (peer ⟨k.val, by omega⟩ (BitVec.ofNat 48 (2 * (100 + k.val))))

/-- A state whose peers are those. -/
def fullMesh : State := { live with mlc := { live.mlc with peers := fullPeers } }

theorem witness_NodeAndPeersAreSet :
    answers .setNode (given live 0x60 (nodeParams 8 0x9A21 1)) = ans .badParam [] ∧
    answers .setNode (given meshed 0x60 (nodeParams 1 0x9A21 1)) = ans .badParam [] ∧
    answers .setNode (given live 0x60 (nodeParams 0 0x05FF 1)) = ans .badParam [] ∧
    answers .setNode (given live 0x60 (nodeParams 0 0x0800 1)) = ans .badParam [] ∧
    answers .setNode (given (sta0 meshed .moving) 0x60 (nodeParams 7 0x9A21 1)) = ans .again [] ∧
    answers .setNode (given live 0x60 (nodeParams 7 0x0600 1)) = ans .ok ([7] ++ le 2 0x0600 ++ [1, 1]) ∧
    (out (exec .setNode (given meshed 0x60 (nodeParams 0 0x9A21 0)))).mlc.presence = [(1, false)] ∧
    (answers .meshInfo (given meshed 0x63 [])).map (fun a => a.results.length) = [26] ∧
    answers .setPeer (given meshed 0x61 ([8] ++ macBytes macA ++ le 2 0)) = ans .badParam [] ∧
    answers .setPeer (given meshed 0x61 ([0] ++ macBytes macA ++ le 2 0)) = ans .badParam [] ∧
    answers .setPeer (given meshed 0x61 ([2] ++ macBytes 0x020000000011 ++ le 2 0)) = ans .badParam [] ∧
    (meshed.peerAt 1 = some 0 ∧ answers .setPeer (given meshed 0x61 ([1] ++ macBytes macA ++ le 2 0)) = ans .ok [0, 1]) ∧
    (meshed.peerAt 7 = none ∧ firstIx meshed.mlc.peers Option.isNone = some 1 ∧
      answers .setPeer (given meshed 0x61 ([7] ++ macBytes macA ++ le 2 0)) = ans .ok [1, 0]) ∧
    (fullMesh.peerAt 7 = none ∧ firstIx fullMesh.mlc.peers Option.isNone = none ∧
      answers .setPeer (given fullMesh 0x61 ([7] ++ macBytes macA ++ le 2 0)) = ans .noRoom []) ∧
    answers .clearPeer (given meshed 0x62 [8]) = ans .badParam [] ∧ answers .clearPeer (given meshed 0x62 [7]) = ans .notFound [] ∧
    answers .clearPeer (given meshed 0x62 [1]) = ans .ok [0] := by decide +kernel

theorem witness_MeshFramesBeaconsAndPresence :
    let ok := control 1 0 5 2 (List.replicate 10 0)
    (live.mlc.set = false ∧ (discards live ok).off = 1) ∧
    (formOk (control 1 15 5 2 (List.replicate 10 0)) = false ∧ (discards meshed (control 1 15 5 2 (List.replicate 10 0))).malformed = 1) ∧
    (formOk ok = true ∧ meshed.peerAt 3 = none ∧ (discards meshed (control 3 0 5 2 (List.replicate 10 0))).unknownSender = 1) ∧
    (discards (meshed.putPeer 0 (some (peer 1 macA))) ok).unknownSender = 1 ∧
    (discards meshed (control 1 7 5 2 (List.replicate 10 0))).notForUs = 1 ∧
    (discards meshed (control 1 0 5 1 (List.replicate 10 0))).repeated = 1 ∧
    (discards meshed ok = ⟨0, 0, 0, 0, 0⟩ ∧
      (out (exec .meshControlFrame (handed meshed ok))).hoc.messages = [⟨1, 5, List.replicate 10 0⟩]) ∧
    (out (exec .meshControlFrame (handed (meshed.putPeer 0 (some { peer 1 0x020000000011 with present := false })) ok))).mlc.presence
      = [(1, true)] ∧
    (let s := { meshed with mlc := { meshed.mlc with beaconDue := true } }
     s.mlc.beaconDue = true ∧ (((out (exec .beaconTimer s)).port .mesh).queue .ctrl).length = 1) ∧
    (let s := { meshed with sck := { meshed.sck with ms := 7500 } }
     pastBy s.sck.ms 4500 3000 = true ∧ (out (exec (.peerSilent 1) s)).mlc.presence = [(1, false)]) ∧
    (let s := { meshed with sck := { meshed.sck with ms := 7499 } }
     pastBy s.sck.ms 4500 3000 = false ∧ (out (exec (.peerSilent 1) s)).mlc.presence = []) ∧
    (let s := { meshed with mlc := { meshed.mlc with presence := [(1, false)] },
                            ups := { meshed.ups with serves := [⟨1, 1, 0⟩] } }
     (out (exec .presenceNotice s)).ups.serves = []) := by decide +kernel

/-- The form test (R129, R171): each count at its bounds, and a body length against the frame. -/
theorem witness_FormTest :
    let body := fun (kind : Nat) (b : List Byte) => formOk (control 1 0 kind 2 b)
    body 5 (List.replicate 10 0) = true ∧ body 5 (List.replicate 11 0) = false ∧ body 0 [] = false ∧ body 15 [] = false ∧
    body 12 ([0, 0, 0, 0, 0]) = false ∧ body 12 ([0, 0, 0, 0, 1, 0, 0]) = true ∧
    body 12 ([0, 0, 0, 0, 9] ++ List.replicate 18 0) = false ∧
    body 13 (List.replicate 7 0 ++ [0, 1, 5]) = true ∧ body 13 (List.replicate 7 0 ++ [0, 2, 5]) = false ∧
    body 14 ([0, 0, 0, 0, 0, 8] ++ List.replicate 16 0) = true ∧ body 14 ([0, 0, 0, 0, 0, 0]) = false ∧
    body 4 (List.replicate 22 0 ++ [4, 1] ++ List.replicate 60 0) = true ∧
    body 4 (List.replicate 22 0 ++ [5, 0] ++ List.replicate 25 0) = false ∧
    formOk (control 1 15 1 2 (List.replicate 12 0)) = true ∧ formOk (control 1 8 5 2 (List.replicate 10 0)) = false ∧
    formOk ((control 1 0 5 2 (List.replicate 10 0)).take 31) = false ∧
    formOk ((control 1 0 5 2 (List.replicate 10 0)).set 14 2) = false := by decide +kernel

/-- Messages with the mesh on and off, and to a node of no peer; the presence notices of a PRESENT and of a silent source. -/
theorem witness_MessagesAreSent :
    let notice := fun (present : Bool) (s : State) => { s with mlc := { s.mlc with presence := [(1, present)] } }
    (meshed.findPeer 1 = some (peer 1 0x020000000011) ∧ (meshed.send 1 5 [9]).2 = .joined ∧
      (meshed.sendTo 1 5 [9]).mlc.seq = 1 ∧
      (((meshed.sendTo 1 13 [9]).port .mesh).queue .update).length = 1) ∧
    (meshed.findPeer 2 = none ∧ (meshed.send 2 5 [9]).2 = .notSent) ∧
    ((meshed.setPort .mesh (Port.reset .mesh)).send 1 5 [9]).2 = .dropped ∧
    ((meshed.sendBeacon [9]).mlc.seq = 1 ∧ (live.sendBeacon [9]).mlc.seq = 0) ∧
    (out (exec .presenceNotice (notice true meshed))).mlc.presence = [] ∧
    (let f : Fetch := ⟨some 1, [0], some 7000, none⟩
     let away := meshed.putPeer 0 (some { peer 1 0x020000000011 with present := false })
     let s := notice false { away with ups := { away.ups with fetch := some f } }
     (out (exec .presenceNotice s)).ups.fetch.map (fun g => g.source) = some none ∧
     (out (exec .presenceNotice s)).exu.arrivals.map (fun r => r.kind) = [.fetchStalled]) ∧
    (let s := notice false (meshed.setSta 0 { station macA .offering with
       handoff := some ⟨⟨0, 1⟩, 1, 1, 9000, 0, none, false, none, []⟩ })
     ((out (exec .presenceNotice s)).sta 0).state = .active) := by decide +kernel

/-! ## Handoff -/

/-- A message delivered to the Handoff Controller. -/
def told (s : State) (kind : Nat) (body : List Byte) : State := { s with hoc := { s.hoc with messages := [⟨1, kind, body⟩] } }

/-- A handoff sub-record of id 1-2 with node 1, its deadline reached at 5000. -/
def sub : Handoff := ⟨⟨1, 2⟩, 1, 1, 5000, 0, some 9, false, some 5000, []⟩

/-- The bytes of the id of `sub` and a MAC. -/
def idMac (m : Mac) : List Byte := [1, 0, 0, 2] ++ macBytes m

/-- Station 0 in a state with a sub-record. -/
def moving (s : State) (st : StaState) (h : Handoff) : State := s.setSta 0 { station macA st with
  handoff := some h, held := if st = .moving ∨ st = .withdrawing then some [] else none }

/-- Station 0 in LEFT with its settle exchange. -/
def left (s : State) (tries : Nat) : State := s.setSta 0 { station macA .left with
  forward := some ⟨1, 5000, some ⟨⟨1, 2⟩, tries, 5000, 0, none⟩⟩ }

/-- Station 0 in a state. -/
def state0 (r : Result) : StaState := ((out r).sta 0).state

theorem witness_RoamingIsSetAndChecked :
    (let p := le 2 10 ++ le 2 0xFF00 ++ [0] ++ le 2 1000 ++ le 2 200 ++ [65, 21, 21] ++ le 2 0 ++ le 2 0
     (out (exec .setRoaming (given live 0x70 p))).hoc.roaming = ⟨50, -90, 1, 1000, 1100, 64, 20, 20, -50, 2000⟩ ∧
     answers .setRoaming (given live 0x70 p) = ans .ok ([50, 0, 0xA6, 0xFF, 1, 0xE8, 3, 0x4C, 4, 64, 20, 20, 0xCE, 0xFF, 0xD0, 7])) ∧
    (let s := { meshed with hoc := { meshed.hoc with checkAt := 5000 } }
     s.sck.counting = true ∧ reached s.sck.ms s.hoc.checkAt = true ∧ (out (exec .checkEvent s)).hoc.checkAt = 5200) ∧
    ((meshed.sta 0).state ≠ .active ∧ ((meshed.checkStation 0).sta 0).state = .free) ∧
    (let r := { station macA .active with runOn := 4 }
     let s := meshed.setSta 0 r
     (s.sta 0).state = .active ∧ (s.sta 0).handoff = none ∧ (s.sta 0).signal = some (-1200) ∧
     ((s.checkStation 0).sta 0).state = .watched ∧
     (((meshed.setSta 0 { r with runOn := 3 }).checkStation 0).sta 0).runOn = 4) := by decide +kernel

theorem witness_QueriesStart :
    let s := sta0 meshed .active
    (s.presentPeers = [1] ∧ ((s.startQuery 0).sta 0).query.map (fun q => q.deadline) = some 5500) ∧
    ((sta0 live .active).presentPeers = [] ∧ (((sta0 live .active).startQuery 0).sta 0).state = .active ∧
      (((sta0 live .active).startQuery 0).sta 0).nextQuery = 7000) := by decide +kernel

theorem witness_ListeningAnswersItsRequester :
    let q := macBytes macA ++ be 2 50
    let full := meshed.setListen (List.replicate 8 ⟨macB, 1, 5300, none⟩)
    (out (exec .signalQuery (told meshed kSignalQuery q))).hoc.listen = [⟨macA, 1, 5100, none⟩] ∧
    (let s := meshed.setListen [⟨macA, 1, 5300, none⟩]
     (out (exec .signalQuery (told s kSignalQuery q))).hoc.listen = [⟨macA, 1, 5300, none⟩]) ∧
    (8 ≤ full.hoc.listen.length ∧
      (((out (exec .signalQuery (told full kSignalQuery q))).port .mesh).queue .ctrl).length = 1) ∧
    (let s := meshed.setListen [⟨macB, 1, 5000, none⟩, ⟨macA, 1, 5000, none⟩]
     reached s.sck.ms 5000 = true ∧ (out (exec (.listenWindowEnd macA 1) s)).hoc.listen = [⟨macB, 1, 5000, none⟩]) ∧
    (let s := meshed.setListen [⟨macA, 1, 5001, none⟩]
     reached s.sck.ms 5001 = false ∧ (out (exec (.listenWindowEnd macA 1) s)).hoc.listen.length = 1) := by decide +kernel

/-- Station 0 WATCHED with a candidate table of nodes 1 and 2 and a deadline. -/
def watched (entries : List Candidate) (deadline : Ms) : State :=
  meshed.setSta 0 { station macA .watched with query := some ⟨entries, deadline⟩ }

theorem witness_CandidatesAreCollectedAndScored :
    let blank := fun n : Node => (⟨n, false, none, 0, false⟩ : Candidate)
    let heard := macBytes macA ++ be 2 (code16 (-800)) ++ [0, 0]
    (meshed.findMac macA = none ∧ (out (exec .signalReport (told meshed kSignalReport heard))).hoc.messages = []) ∧
    ((watched [blank 1, blank 2] 5500).findMac (macAt heard 0) = some 0 ∧
      ((out (exec .signalReport (told (watched [blank 1, blank 2] 5500) kSignalReport heard))).sta 0).query =
        some ⟨[⟨1, true, some (-800), 0, false⟩, blank 2], 5500⟩) ∧
    state0 (exec .signalReport (told (watched [blank 1] 5500) kSignalReport heard)) = .offering ∧
    state0 (exec .signalReport (told (watched [⟨1, true, none, 0, false⟩] 5500) kSignalReport heard)) = .watched ∧
    (reached 5000 5000 = true ∧ state0 (exec (.queryDeadline 0) (watched [blank 1] 5000)) = .active) ∧
    (reached 5000 5001 = false ∧ state0 (exec (.queryDeadline 0) (watched [blank 1] 5001)) = .watched) ∧
    ((watched [] 0).winner (station macA .watched) [⟨1, true, some (-800), 0, false⟩] = some 1) ∧
    ((watched [] 0).winner (station macA .watched) [⟨1, true, some (-800), 0, true⟩] = none) := by decide +kernel

/-- A report for a record that is not WATCHED is only taken; the 2000 ms of R65. -/
theorem witness_GamingAndLateReports :
    let heard := macBytes macA ++ be 2 (code16 (-800)) ++ [0, 0]
    let s := sta0 meshed .active
    (s.findMac (macAt heard 0) = some 0 ∧ (s.sta 0).state ≠ .watched ∧
      ((out (exec .signalReport (told s kSignalReport heard))).sta 0) = s.sta 0 ∧
      (out (exec .signalReport (told s kSignalReport heard))).hoc.messages = []) ∧
    s.gaming { station macA .active with lastGame := some 3001 } = true ∧
    s.gaming { station macA .active with lastGame := some 3000 } = false ∧
    s.gaming (station macA .active) = false := by decide +kernel

theorem witness_TablesClose :
    let none_ := watched [⟨1, true, none, 0, false⟩] 5500
    let best := watched [⟨1, true, some (-800), 0, false⟩] 5500
    ((none_.sta 0).query.isSome = true ∧ none_.winner (none_.sta 0) [⟨1, true, none, 0, false⟩] = none ∧
      ((none_.closeQuery 0).sta 0).requery = 4 ∧ ((none_.closeQuery 0).sta 0).nextQuery = 7000) ∧
    (best.winner (best.sta 0) [⟨1, true, some (-800), 0, false⟩] = some 1 ∧
      ((best.closeQuery 0).sta 0).state = .offering) := by decide +kernel

/-- An OFFER body of id 1-2 for a MAC, without arm entries and flows. -/
def offerOf (m : Mac) : List Byte := idMac m ++ [255] ++ be 2 5 ++ be 2 0 ++ be 4 9 ++ [1] ++ be 2 100 ++ [0, 0]

/-- The kind byte of the last message queued on MESH. -/
def sentKind (s : State) : Option Byte := (((s.port .mesh).queue .ctrl).getLast?).map fun c => byteAt c.frame 15

theorem witness_OfferReservesOrIsDeclined :
    (let s := { meshed with ups := { meshed.ups with state := .hold } }
     s.ups.state = .hold ∧ sentKind (out (exec .offer (told s kOffer (offerOf macA)))) = some 6) ∧
    (let s := moving meshed .reserved sub
     (s.findHandoff ⟨1, 2⟩ (· == .reserved) none).isSome = true ∧
     sentKind (out (exec .offer (told s kOffer (offerOf macA)))) = some 5) ∧
    ((sta0 meshed .active).findMac macA = some 0 ∧ (sta0 meshed .active).findHandoff ⟨1, 2⟩ (· == .reserved) none = none ∧
      sentKind (out (exec .offer (told (sta0 meshed .active) kOffer (offerOf macA)))) = some 6) ∧
    (meshed.findMac macA = none ∧ meshed.freeIndex = some 0 ∧
      state0 (exec .offer (told meshed kOffer (offerOf macA))) = .reserved ∧
      ((out (exec .offer (told meshed kOffer (offerOf macA)))).sta 0).used = 5) := by decide +kernel

theorem witness_OfferFindsNoRoom :
    let s := { meshed with stt := { meshed.stt with recs := .replicate 128 (station macB .active) } }
    s.findMac macA = none ∧ s.freeIndex = none ∧ s.findHandoff ⟨1, 2⟩ (· == .reserved) none = none ∧
    sentKind (out (exec .offer (told s kOffer (offerOf macA)))) = some 6 := by decide +kernel

theorem witness_OfferEndsInAMoveOrFails :
    (let s := moving meshed .offering sub
     s.findHandoff ⟨1, 2⟩ (· == .offering) (some 1) = some (0, sub) ∧ s.hoc.forced = none ∧
     state0 (exec .accept (told s kAccept (idMac macA))) = .moving ∧
     state0 (exec .decline (told s kDecline (idMac macA ++ [3]))) = .active) ∧
    (let s := moving meshed .moving sub
     s.findHandoff ⟨1, 2⟩ (· == .offering) (some 1) = none ∧
     sentKind (out (exec .accept (told s kAccept (idMac macA)))) = none ∧
     state0 (exec .decline (told s kDecline (idMac macA ++ [3]))) = .moving) ∧
    sentKind (out (exec .accept (told meshed kAccept (idMac macA)))) = some 10 ∧
    answers .forceHandoff (given meshed 0x71 [128, 1]) = ans .badParam [] ∧
    answers .forceHandoff (given meshed 0x71 [0, 8]) = ans .badParam [] ∧
    answers .forceHandoff (given meshed 0x71 [127, 1]) = ans .refusedState [] ∧
    answers .forceHandoff (given (sta0 meshed .active) 0x71 [0, 2]) = ans .refusedState [] ∧
    answers .forceHandoff (given (sta0 meshed .watched) 0x71 [0, 1]) = ans .again [] ∧
    (out (exec .forceHandoff (given (sta0 meshed .active) 0x71 [0, 1]))).hoc.forced = some (0, 7) := by decide +kernel

/-- R60: unnamed flag bits and unused selector bytes are ignored, log entry 26. -/
theorem test_rule_ignores_unnamed_bits :
    let ps := (ruleParams 63).set 44 0xFF
    let read := fun l => (ruleOf (order 0x20 l)).map fun x => (x.2.selector, x.2.listed, x.2.report, x.2.arm)
    read (ps.set 41 9) = some (.any, true, true, true) ∧
    read ((ps.set 41 9).set 35 2) = some (.profile 0, true, true, true) := by decide +kernel

/-- The bytes of an id and a MAC (R167, R171), their reading back before a DECLINE's reason, and the records that hold an
id: by the sub-record, by the settle exchange, by neither. -/
theorem witness_HandoffIdsAreCarriedAndHeld :
    let m : Msg := ⟨1, kDecline, idMacBody ⟨5, 0x1234⟩ 0xA1A2A3A4A5A6 ++ [3]⟩
    m.body = [5, 0, 0x12, 0x34, 0xA1, 0xA2, 0xA3, 0xA4, 0xA5, 0xA6, 3] ∧
    m.id = ⟨5, 0x1234⟩ ∧ m.mac = 0xA1A2A3A4A5A6 ∧ HandoffId.leBytes ⟨5, 0x1234⟩ = [5, 0, 0x34, 0x12] ∧
    ((moving meshed .offering sub).sta 0).holdsId ⟨1, 2⟩ = true ∧ ((left meshed 1).sta 0).holdsId ⟨1, 2⟩ = true ∧
    ((left meshed 1).sta 0).holdsId ⟨1, 3⟩ = false ∧ (Station.free.holdsId ⟨1, 2⟩) = false ∧
    (((left meshed 1).findSettle ⟨1, 2⟩).map Prod.fst = some 0 ∧ (left meshed 1).findSettle ⟨2, 2⟩ = none) ∧
    (let ends := (left meshed 1).setSta 1 { station macB .active with forward := ((left meshed 1).sta 0).forward }
     (ends.setSta 0 Station.free).findSettle ⟨1, 2⟩ = none) := by decide +kernel

/-- The first 38 bytes of a handed flow are its key (R46, R171). -/
theorem witness_HandedFlowKeyIsReadBack :
    let b := (List.range 39).map fun n => BitVec.ofNat 8 (n + 1)
    1 + 38 ≤ b.length ∧ (flowKeyAt b 1).bytes = b.drop 1 := by decide +kernel

/-- An ACCEPT and a DECLINE that answer a FORCE_HANDOFF, and one of another station's offer. -/
theorem witness_ForcedHandoffIsAnswered :
    let s := moving (given meshed 0x71 [0, 1]) .offering sub
    let forced := fun (i : StaIx) (u : State) => { u with hoc := { u.hoc with forced := some (i, 7) } }
    answers .accept (forced 0 (told s kAccept (idMac macA))) = ans .ok [] ∧
    answers .accept (forced 1 (told s kAccept (idMac macA))) = [] ∧
    answers .decline (forced 0 (told s kDecline (idMac macA ++ [3]))) = [⟨7, .declined, 3, []⟩] ∧
    answers (.retryWaitExpiry 0) (forced 0 (moving (given meshed 0x71 [0, 1]) .offering { sub with tries := 3 })) =
      ans .timeout [] := by decide +kernel

theorem witness_HandoffTimersRetryAndEndMoves :
    let two := { sub with tries := 2 }
    let three := { sub with tries := 3 }
    reached 5000 sub.deadline = true ∧
    (((out (exec (.retryWaitExpiry 0) (moving meshed .offering two))).sta 0).handoff =
        some { sub with tries := 3, deadline := 5400 }) ∧
    state0 (exec (.retryWaitExpiry 0) (moving meshed .offering three)) = .active ∧
    (((out (exec (.retryWaitExpiry 0) (moving meshed .withdrawing sub))).sta 0).handoff =
        some { sub with tries := 2, deadline := 5200 }) ∧
    state0 (exec (.retryWaitExpiry 0) (moving meshed .withdrawing three)) = .active ∧
    (((out (exec (.retryWaitExpiry 0) (moving meshed .active two))).sta 0).handoff =
        some { sub with tries := 3, wait := some 5400 }) ∧
    (((out (exec (.retryWaitExpiry 0) (moving meshed .active three))).sta 0).handoff = some { three with wait := none }) ∧
    (((out (exec (.retryWaitExpiry 0) (left meshed 2))).sta 0).forward =
        some ⟨1, 5000, some ⟨⟨1, 2⟩, 3, 5200, 0, none⟩⟩) ∧
    (out (exec (.retryWaitExpiry 0) (left meshed 3))).exu.arrivals.map (fun r => r.kind) = [.settleLost] ∧
    state0 (exec (.moveDeadline 0) (moving meshed .moving sub)) = .withdrawing ∧
    ((out (exec (.settleWaitEnd 0) (moving meshed .active sub))).sta 0).handoff = none ∧
    state0 (exec (.arrivalDeadline 0) (moving meshed .reserved sub)) = .free ∧
    (reached 5000 5001 = false ∧ state0 (exec (.moveDeadline 0) (moving meshed .moving { sub with deadline := 5001 })) = .moving) ∧
    state0 (exec (.graceDeadline 0) (left meshed 1)) = .free ∧
    state0 (exec (.graceDeadline 0) (meshed.setSta 0 { station macA .left with forward := some ⟨1, 5001, none⟩ })) = .left := by
  decide +kernel

/-- A SETTLE body of id 1-2 with used minutes of a day. -/
def settleOf (u1 : Nat) (day : Nat) : List Byte := idMac macA ++ be 2 u1 ++ be 4 day ++ [1]

theorem witness_MessagesEndTheMove :
    state0 (exec .confirm (told (moving meshed .moving sub) kConfirm (idMac macA))) = .left ∧
    state0 (exec .confirm (told (sta0 meshed .active) kConfirm (idMac macA))) = .active ∧
    ((clocked meshed).sck.day = 9 ∧
      ((out (exec .settle (told (moving (clocked meshed) .active sub) kSettle (settleOf 30 9)))).sta 0).used = 30) ∧
    ((out (exec .settle (told (moving (clocked meshed) .active sub) kSettle (settleOf 30 8)))).sta 0).used = 0 ∧
    sentKind (out (exec .settle (told meshed kSettle (settleOf 30 9)))) = some 9 ∧
    (((out (exec .settleAck (told (left meshed 1) kSettleAck [1, 0, 0, 2, 1]))).sta 0).forward = some ⟨1, 5000, none⟩) ∧
    (meshed.findSettle ⟨1, 2⟩ = none ∧ (out (exec .settleAck (told meshed kSettleAck [1, 0, 0, 2, 1]))).hoc.messages = []) ∧
    state0 (exec .withdraw (told (moving meshed .reserved sub) kWithdraw (idMac macA))) = .free ∧
    sentKind (out (exec .withdraw (told (sta0 meshed .active) kWithdraw (idMac macA)))) = some 7 ∧
    sentKind (out (exec .withdraw (told meshed kWithdraw (idMac macA)))) = some 11 ∧
    state0 (exec .withdrawAck (told (moving meshed .withdrawing sub) kWithdrawAck (idMac macA))) = .active ∧
    state0 (exec .withdrawAck (told (moving meshed .moving sub) kWithdrawAck (idMac macA))) = .moving := by decide +kernel

/-! ## The flash and the slot record -/

/-- A flash operation under way since 1 s of scheduler time, the time now given in microseconds. -/
def flashing (op : FlashOp) (now : Nat) : State := { running with
  sck := { running.sck with us := BitVec.ofNat 64 now }
  fls := { running.fls with op := some (op, 1000000) } }

/-- The Flash Controller in a boot phase. -/
def booting (b : Boot) : State := { running with fls := { running.fls with boot := b } }

/-- A slot record of slot A, in trial with 3 boots left. -/
def trialRecord : SlotRecord := ⟨.a, .b, true, 3, 5, 6⟩

theorem witness_FlashOperationsEndInOrderOrTimeOut :
    (let r : FlashOp := ⟨.readFlash, .read, 0, 4, [], .nobody⟩
     let w : FlashOp := ⟨.staging, .erase, 0x100000, 4096, [], .nobody⟩
     nextFlash [w, r, w] = some (r, [w, w])) ∧
    (let p : FlashOp := ⟨.staging, .program, 0x100000, 256, [], .nobody⟩
     (out (exec (.flashOperationComplete []) (flashing p 1004999))).fls.op = none ∧
     (out (exec .flashTimeout (flashing p 1004999))).fls.stalled = false ∧
     (out (exec .flashTimeout (flashing p 1005000))).fls.stalled = true) ∧
    (let e : FlashOp := ⟨.staging, .erase, 0x100000, 4096, [], .nobody⟩
     (out (exec .flashTimeout (flashing e 1499999))).fls.stalled = false ∧
     (out (exec .flashTimeout (flashing e 1500000))).fls.stalled = true) ∧
    (out (exec .flashTimeout (flashing ⟨.readFlash, .read, 0, 4, [], .nobody⟩ 9000000))).fls.stalled = false ∧
    (let s := { running with fls := { running.fls with stalled := true } }
     s.fls.op = none ∧ (out (exec (.flashOperationComplete []) s)).fls.stalled = false) ∧
    (out (exec (.flashOperationComplete []) (booting (.waitStatus 9000000)))).fls.boot = .statusRead ∧
    (out (exec .slotRecordCheck (booting .statusRead))).fls.op.isSome = true ∧
    (out (exec .slotRecordCheck (booting (.waitStatus 5000000)))).fls.boot = .readRecord ∧
    (out (exec .slotRecordCheck (booting (.waitStatus 5000001)))).fls.boot = .waitStatus 5000001 := by decide +kernel

theorem witness_FlashRequestsWait :
    let r : FlashOp := ⟨.readFlash, .read, 0, 4, [], .nobody⟩
    let w : FlashOp := ⟨.staging, .erase, 0x100000, 4096, [], .nobody⟩
    let stalled := { running with fls := { running.fls with stalled := true } }
    ((flashing w 1000001).fls.op.isSome = true ∧ ((flashing w 1000001).flashRequest r).fls.waiting = [r]) ∧
    (stalled.flashRequest r).fls.op = none ∧
    (nextFlash (running.fls.waiting ++ [r]) = some (r, []) ∧ (running.flashRequest r).fls.op = some (r, 5000000)) ∧
    (((flashing w 1000001).flashRequest r).opEnds.fls.op = some (r, 1000001)) ∧
    (flashing w 1000001).opEnds.fls.op = none := by decide +kernel

theorem witness_SlotRecordIsCheckedAndReadBack :
    (trialRecord.active ≠ trialRecord.fallback ∧ trialRecord.remaining ≤ 3 ∧ trialRecord.bytes.length = 16) ∧
    slotRecordOf trialRecord.bytes = some trialRecord ∧ slotRecordOf [] = none ∧
    slotRecordOf (trialRecord.bytes.set 0 9) = none := by decide +kernel

theorem witness_RecordCheckTakesRevertsOrCounts :
    (State.recordIn running []).fls.boot = .readManifest ⟨.a, .b, false, 0, 0, 0⟩ (some (.recordInvalid, false)) [] ∧
    (State.recordIn running ({ trialRecord with trial := false, remaining := 0 } : SlotRecord).bytes).fls.boot =
      .readManifest ⟨.a, .b, false, 0, 5, 6⟩ none [] ∧
    (State.recordIn running ({ trialRecord with remaining := 1 } : SlotRecord).bytes).fls.boot =
      .eraseRecord ⟨.a, .b, true, 0, 5, 6⟩ .trialStart ∧
    (State.recordIn running ({ trialRecord with remaining := 0 } : SlotRecord).bytes).fls.boot =
      .eraseRecord ⟨.b, .a, false, 0, 5, 6⟩ .reverted ∧
    (running.checkEnds trialRecord (some (.trialStart, true)) []).exu.arrivals = [⟨.trialStart, 0, 5000, [0, 1, 3, 1]⟩] := by
  decide +kernel

/-- The check over the flash: the record in, its erase, its program and their failures, the manifest in. -/
theorem witness_RecordCheckGoesOn :
    let on_ := fun (k : FlashKind) (n : Nat) (b : Boot) (now : Nat) =>
      { (flashing ⟨.slotRecord, k, 0x0FF000, n, [], .boot⟩ now) with fls := { (booting b).fls with
          op := some (⟨.slotRecord, k, 0x0FF000, n, [], .boot⟩, 1000000) } }
    let after := fun (s : State) (data : List Byte) => (out (exec (.flashOperationComplete data) s)).fls.boot
    let late := fun (s : State) => (out (exec .flashTimeout s)).fls.boot
    after (on_ .read 16 .readRecord 1000001) trialRecord.bytes = .eraseRecord { trialRecord with remaining := 2 } .trialStart ∧
    after (on_ .erase 4096 (.eraseRecord trialRecord .trialStart) 1000001) [] = .programRecord trialRecord .trialStart ∧
    after (on_ .program 16 (.programRecord trialRecord .trialStart) 1000001) [] =
      .readManifest trialRecord (some (.trialStart, true)) [] ∧
    late (on_ .erase 4096 (.eraseRecord trialRecord .trialStart) 1500000) =
      .readManifest trialRecord (some (.trialStart, false)) [] ∧
    late (on_ .program 16 (.programRecord trialRecord .trialStart) 1005000) =
      .readManifest trialRecord (some (.trialStart, false)) [] ∧
    after (on_ .read 8 (.readManifest trialRecord none []) 1000001) (List.replicate 8 0) = .done := by decide +kernel

theorem witness_ReadFlashAndTableReadsGoOnInPieces :
    let q := fun (a n d : Nat) => given running 0x90 (le 4 a ++ le 4 n ++ le 4 d)
    answers .readFlash (q 0 0 64) = ans .badParam [] ∧
    answers .readFlash (q 0 65537 64) = ans .badParam [] ∧
    answers .readFlash (q 16777213 4 64) = ans .badParam [] ∧
    answers .readFlash (q 0 4 63) = ans .areaError [] ∧
    answers .readFlash (q 0 4 65533) = ans .areaError [] ∧
    (out (exec .readFlash (q 16777212 4 65532))).fls.readWork = some ⟨7, 4, 16777212, 4, 0, 65532⟩ ∧
    (out (exec .readFlash (q 0 4097 64))).fls.readWork = some ⟨7, 4097, 0, 4096, 1, 64⟩ ∧
    (out (exec .readFlash (q 0 4 64))).fls.op.isSome = true := by decide +kernel

/-- A piece read, a piece written with others waiting, the next piece, the end; and the same of a table read. -/
theorem witness_ReadsGoOn :
    let w := fun left => (⟨7, 4097, 0, 4096, left, 64⟩ : ReadWork)
    let flash := fun (left : Nat) (wait : Bool) => { bulkOn 0x90 true 4 wait with
      fls := { (bulkOn 0x90 true 4 wait).fls with readWork := some (w left) } }
    let table := fun (left : Nat) (wait : Bool) => { bulkOn 0x02 true 4 wait with exu := { (bulkOn 0x02 true 4 wait).exu with
      tableWork := some ⟨7, 0, 4, left, 1, 64, 5⟩ } }
    let after := fun (s : State) => out (exec (.busAccessComplete true []) s)
    (let s := { flash 1 false with fls := { (flash 1 false).fls with op := some (⟨.readFlash, .read, 0, 4, [], .readFlash⟩, 0) } }
     (out (exec (.flashOperationComplete [1, 2, 3, 4]) s)).exu.busWait.length = 1) ∧
    (after (flash 1 true)).fls.readWork = some (w 1) ∧
    (after (flash 1 false)).fls.readWork = some ⟨7, 4097, 4096, 1, 0, 4160⟩ ∧
    answers (.busAccessComplete true []) (flash 0 false) = ans .ok (le 4 4097) ∧
    (after (table 1 true)).exu.tableWork = some ⟨7, 0, 4, 1, 1, 64, 5⟩ ∧
    (after (table 1 false)).exu.tableWork = some ⟨7, 0, 5, 0, 2, 128, 5⟩ ∧
    (answers (.busAccessComplete true []) (table 0 false) = ans .ok (le 2 2 ++ le 2 5 ++ le 2 3) ∧
      (after (table 0 false)).exu.readPos = some ⟨7, 0, 5, 3⟩) := by decide +kernel

/-! ## Staging -/

/-- The manifest of an image of two chunks, 4100 bytes. -/
def image : Manifest := ⟨77, 4100, 2, [0x11111111, 0x22222222]⟩

/-- The stager in STAGING with a chunk map. -/
def stagingWith (s : State) (map : List ChunkState) : State :=
  { s with ups := { s.ups with state := .staging, manifest := some image, map := map } }

/-- The stager in a state. -/
def stager (s : State) (st : Staging) : State := { s with ups := { s.ups with state := st } }

/-- An image in trial. -/
def onTrial (s : State) : State := { s with fls := { s.fls with slot := trialRecord } }

/-- The order in flight has the progress of one already withdrawn or joined. -/
def progressed (s : State) (k : Byte) (ps : List Byte) (p : Progress) : State :=
  { s with exu := { s.exu with inFlight := [{ order k ps with progress := p }], nextOrder := 8 } }

/-- The four buffers held. -/
def busy (s : State) : State := { s with ups := { s.ups with bufs := .replicate 4 (some ⟨0, [], none, .erasing⟩) } }

/-- The stager's work after a command. -/
def workAfter (c : Instr) (s : State) : UpsWork := (out (exec c s)).ups.work

theorem witness_StagingOrdersAreWorked :
    answers .beginStaging (progressed running 0x80 [] .cancelled) = ans .cancelled [] ∧
    answers .stageChunk (progressed running 0x81 [] .cancelled) = ans .cancelled [] ∧
    answers .resumeStaging (progressed running 0x82 [] .cancelled) = ans .cancelled [] ∧
    answers .beginStaging (given (onTrial running) 0x80 (le 4 64)) = [⟨7, .refusedState, reasonTrialPending, []⟩] ∧
    answers .beginStaging (given (stager running .staging) 0x80 (le 4 64)) = ans .refusedState [] ∧
    answers .beginStaging (given running 0x80 (le 4 63)) = ans .areaError [] ∧
    answers .beginStaging (given running 0x80 (le 4 65525)) = ans .areaError [] ∧
    workAfter .beginStaging (given running 0x80 (le 4 65524)) = .beginHead 7 [] ∧
    workAfter .beginStaging (given (stager running .complete) 0x80 (le 4 64)) = .beginHead 7 [] ∧
    answers .resumeStaging (given (onTrial running) 0x82 []) = [⟨7, .refusedState, reasonTrialPending, []⟩] ∧
    answers .resumeStaging (given (stager running .complete) 0x82 []) = ans .refusedState [] ∧
    workAfter .resumeStaging (given running 0x82 []) = .resume 7 [] := by decide +kernel

theorem witness_StageChunkBeginsItsWork :
    let q := fun (s : State) (k d : Nat) => given s 0x81 (le 2 k ++ le 4 d)
    let s := stagingWith running [.missing, .missing]
    answers .stageChunk (q running 0 64) = ans .refusedState [] ∧
    answers .stageChunk (q s 2 64) = ans .badParam [] ∧
    answers .stageChunk (q (stagingWith running [.present, .writing]) 0 64) = ans .duplicate [] ∧
    answers .stageChunk (q (stagingWith running [.present, .writing]) 1 64) = ans .again [] ∧
    answers .stageChunk (q s 1 65533) = ans .areaError [] ∧
    workAfter .stageChunk (q s 1 65532) = .stage 7 ∧
    workAfter .stageChunk (q (busy s) 0 64) = .stageWait 7 0 64 := by decide +kernel

/-- The bytes of a manifest with its CRC. -/
def manifestBytes (id length count : Nat) (crcs : List Word) : List Byte :=
  let b := le 4 id ++ le 4 length ++ le 2 count ++ [0, 0] ++ (crcs.map fun c => le 4 c.toNat).flatten
  b ++ le 4 (crc32 b).toNat

/-- A staging order with its work and a bulk read of its bytes on the bus. -/
def staged (k : Byte) (w : UpsWork) (n : Nat) (wait : Bool) : State :=
  let s := { bulkOn k false n wait with ups := { (bulkOn k false n wait).ups with work := w } }
  { s with exu := { s.exu with inFlight := [order k (le 4 64)] } }

/-- The bulk reads of BEGIN_STAGING and STAGE_CHUNK. -/
theorem witness_StagingReadsGoOn :
    let good := manifestBytes 77 4100 2 [0x11111111, 0x22222222]
    let after := fun (s : State) (data : List Byte) => out (exec (.busAccessComplete true data) s)
    let head := fun (b : List Byte) (wait : Bool) => after (staged 0x80 (.beginHead 7 []) 12 wait) b
    (manifestOf good = some image ∧ manifestOf (good.set 0 78) = none) ∧
    (head (good.take 12) true).ups.work = .beginHead 7 (good.take 12) ∧
    answers (.busAccessComplete true (List.replicate 12 0)) (staged 0x80 (.beginHead 7 []) 12 false) = ans .badParam [] ∧
    (head (good.take 12) false).ups.work = .beginBody 7 24 [] ∧
    (after (staged 0x80 (.beginBody 7 24 []) 24 false) good).ups.work = .beginErase 7 0 good ∧
    answers (.busAccessComplete true (good.set 0 78)) (staged 0x80 (.beginBody 7 24 []) 24 false) = ans .badParam [] ∧
    (let s := { staged 0x80 (.beginBody 7 24 []) 24 false with fls := { running.fls with slot := ⟨.a, .b, false, 0, 77, 0⟩ } }
     answers (.busAccessComplete true good) s = ans .duplicate []) ∧
    (let s := { staged 0x81 (.stage 7) 4 true with ups := { (stagingWith running [.missing, .missing]).ups with
       work := .stage 7, bufs := #v[some ⟨1, [], some 7, .reading⟩, none, none, none] } }
     (after s [1, 2, 3, 4]).ups.bufs.get 0 = some ⟨1, [1, 2, 3, 4], some 7, .reading⟩ ∧
     answers (.busAccessComplete true [1, 2, 3, 4]) { s with exu := { s.exu with busWait := [] } } = ans .crcMismatch []) ∧
    (let s := stagingWith (busy (given running 0x81 [])) [.missing, .missing]
     let t := { s with ups := { s.ups with work := .stageWait 7 1 64 } }
     s.freeBuf 2 = { s with ups := { s.ups with bufs := put s.ups.bufs 2 none } } ∧
     (t.freeBuf 2).ups.bufs.get 2 = some ⟨1, [], some 7, .reading⟩ ∧ (t.freeBuf 2).ups.work = .stage 7) := by decide +kernel

/-- A flash operation of a staging order ended, with its work. -/
def flashed (k : FlashKind) (n : Nat) (w : UpsWork) (s : State) : State :=
  { s with
    ups := { s.ups with work := w }
    fls := { s.fls with op := some (⟨.staging, k, 0x880000, n, [], .work⟩, 4000000) } }

/-- The flash work of BEGIN_STAGING and RESUME_STAGING, to its end and at a failure. -/
theorem witness_StagingFlashGoesOn :
    let good := manifestBytes 77 4100 2 [0x11111111, crc32 [1, 2, 3, 4]]
    let held : Manifest := ⟨77, 4100, 2, [0x11111111, crc32 [1, 2, 3, 4]]⟩
    let after := fun (s : State) (data : List Byte) => out (exec (.flashOperationComplete data) s)
    let work := fun (w : UpsWork) => (after (flashed .erase 4096 w running) []).ups.work
    let scan := fun (k : Nat) (map : List ChunkState) => flashed .read 4 (.rescan 7 k)
      { running with ups := { running.ups with state := .rescanning, manifest := some held, map := map } }
    work (.beginErase 7 0 good) = .beginErase 7 1 good ∧ work (.beginErase 7 1 good) = .beginProgram 7 0 good ∧
    (let s := given (flashed .program 24 (.beginProgram 7 0 good) running) 0x80 []
     answers (.flashOperationComplete []) s = ans .ok (le 4 77 ++ le 2 2) ∧ (after s []).ups.state = .staging) ∧
    (let s := given (flashed .program 24 (.beginProgram 7 0 good) (stager running .complete)) 0x80 []
     answers .flashTimeout s = ans .flashError [] ∧ (out (exec .flashTimeout s)).ups.state = .idle) ∧
    answers (.flashOperationComplete (List.replicate 4 0)) (given (flashed .read 4 (.resume 7 []) running) 0x82 []) =
      ans .notFound [] ∧
    (after (flashed .read 24 (.resume 7 []) running) good).ups.work = .rescan 7 0 ∧
    (after (scan 0 [.missing, .missing]) [0, 0, 0, 0]).ups.work = .rescan 7 1 ∧
    (after (scan 1 [.missing, .missing]) [1, 2, 3, 4]).ups.state = .staging ∧
    (after (scan 1 [.present, .missing]) [1, 2, 3, 4]).ups.state = .complete ∧
    (after (scan 1 [.present, .missing]) [1, 2, 3, 4]).exu.arrivals.map (fun r => r.kind) = [.stagingComplete] := by
  decide +kernel

/-- A chunk's buffer in a phase with the flash operation of its write. -/
def writing (s : State) (x : Buf) (k : FlashKind) (n : Nat) : State :=
  { s.setBuf 0 (some x) with fls := { s.fls with op := some (⟨.staging, k, 0x882000, n, [], .buf 0⟩, 4000000) } }

/-- A chunk write (R158) from its start to its end, with its failures, and the fetch that goes on (R162). -/
theorem witness_ChunkIsWrittenVerifiedAndCounted :
    let held : Manifest := ⟨77, 4100, 2, [0x11111111, crc32 [1, 2, 3, 4]]⟩
    let s := fun (map : List ChunkState) => given { running with
      ups := { running.ups with state := .staging, manifest := some held, map := map, work := .stage 7 } } 0x81 []
    let x : Buf := ⟨1, [1, 2, 3, 4], some 7, .reading⟩
    let after := fun (t : State) (data : List Byte) => out (exec (.flashOperationComplete data) t)
    let phase := fun (t : State) => (t.ups.bufs.get 0).map fun b => b.phase
    ((s [.missing, .missing]).writeChunk 0 { x with data := [0] }).exu.answers = ans .crcMismatch [] ∧
    ((s [.missing, .missing]).writeChunk 0 x).ups.map = [.missing, .writing] ∧
    ((s [.missing, .writing]).writeChunk 0 x).exu.answers = ans .again [] ∧
    ((s [.missing, .present]).writeChunk 0 x).exu.answers = ans .duplicate [] ∧
    phase (after (writing (s [.missing, .writing]) { x with phase := .erasing } .erase 4096) []) = some (.programming 0) ∧
    phase (after (writing (s [.missing, .writing]) { x with phase := .programming 0 } .program 4) []) = some .verifying ∧
    phase (after (writing (s [.missing, .writing]) ⟨1, List.replicate 257 0, some 7, .programming 0⟩ .program 256) []) =
      some (.programming 1) ∧
    (let t := after (writing (s [.missing, .writing]) { x with phase := .verifying } .read 4) [1, 2, 3, 4]
     t.ups.map = [.missing, .present] ∧ t.exu.answers = ans .ok (le 2 1 ++ le 2 1)) ∧
    (let t := after (writing (s [.present, .writing]) { x with phase := .verifying } .read 4) [1, 2, 3, 4]
     t.ups.state = .complete ∧ t.exu.arrivals = [⟨.stagingComplete, 0, 5000, le 4 77⟩]) ∧
    (let t := after (writing (s [.present, .writing]) { x with phase := .verifying } .read 4) [0, 0, 0, 0]
     t.ups.map = [.present, .missing] ∧ t.exu.arrivals = [⟨.chunkFailed, 1, 5000, [2]⟩] ∧ t.exu.answers = ans .flashError []) ∧
    (let t := out (exec .flashTimeout (writing (s [.present, .writing]) { x with phase := .erasing } .erase 4096))
     t.exu.arrivals = [⟨.chunkFailed, 1, 5000, [1]⟩]) ∧
    (let f := fun (map : List ChunkState) (g : Fetch) => ((s map).setFetch (some g)).fetchGoesOn.ups.fetch
     f [.missing] ⟨none, [], none, none⟩ = some ⟨none, [], none, none⟩ ∧
     f [.writing] ⟨some 1, [0], some 7000, none⟩ = some ⟨some 1, [], none, none⟩ ∧
     f [.missing] ⟨some 1, [], none, none⟩ = some ⟨some 1, [0], some 7000, none⟩ ∧
     f [.present, .missing] ⟨some 1, [0], some 6000, none⟩ = some ⟨some 1, [1], some 7000, none⟩ ∧
     f [.missing, .missing] ⟨some 1, [0], some 6000, none⟩ = some ⟨some 1, [0], some 6000, none⟩) := by decide +kernel

theorem witness_CancelStagingDropsTheStaging :
    (let s := given (stagingWith running [.missing, .missing]) 0x83 []
     (s.ups.state = .staging ∧ (s.cancelJoins 7).ups.state = .idle ∧
      (s.cancelJoins 7).exu.inFlight.map (fun o => o.progress) = [.cancelErasing])) ∧
    ((progressed (stager running .complete) 0x81 [] .fresh).cancelJoins 9).exu.inFlight.map (fun o => o.progress) =
      [.cancelled] ∧
    ((given running 0x83 []).cancelJoins 7).exu.inFlight.map (fun o => o.progress) = [.cancelNothing] ∧
    ((given (stager running .hold) 0x83 []).cancelJoins 7).exu.inFlight.map (fun o => o.progress) = [.cancelRefused] ∧
    (out (exec .cancelStaging (given running 0x83 []))).exu.inFlight.map (fun o => o.progress) = [.cancelNothing] ∧
    answers .cancelStaging (progressed running 0x83 [] .cancelNothing) = ans .ok [] ∧
    answers .cancelStaging (progressed running 0x83 [] .cancelErased) = ans .ok [] ∧
    answers .cancelStaging (progressed running 0x83 [] .cancelRefused) = ans .refusedState [] ∧
    answers .cancelStaging (progressed running 0x83 [] .cancelFailed) = ans .flashError [] := by decide +kernel

/-- The dropped flash work, the serves that stay, and the end of the erase. -/
theorem witness_CancelDropsTheFlashWork :
    let p : FlashOp := ⟨.staging, .erase, 0x882000, 4096, [], .buf 0⟩
    let s := writing (stagingWith running [.missing, .writing]) ⟨1, [], none, .erasing⟩ .erase 4096
    let t := { s with
      ups := { s.ups with serves := [⟨1, 77, 0⟩, ⟨1, 0, 0⟩] }
      fls := { s.fls with waiting := [p, { p with owner := .readFlash }] } }
    let u := t.cancelJoins 7
    let erase : FlashOp := ⟨.staging, .erase, 0x880000, 4096, [], .cancel 7⟩
    u.ups.serves = [⟨1, 0, 0⟩] ∧ u.fls.waiting = [{ p with owner := .readFlash }, erase] ∧
    u.fls.op.map (fun o => o.1.owner) = some .nobody ∧
    (let v := { given running 0x83 [] with fls := { running.fls with op := some (erase, 4000000) } }
     (out (exec (.flashOperationComplete []) v)).exu.inFlight.map (fun o => o.progress) = [.cancelErased] ∧
     (out (exec .flashTimeout v)).exu.inFlight.map (fun o => o.progress) = [.cancelFailed]) := by decide +kernel

/-! ## Peers: the fetch, the fragments, the serves -/

/-- Node 1 holds the image whole. -/
def offering (s : State) : State :=
  s.putPeer 0 (some { peer 1 0x020000000011 with stagedComplete := true, stagingId := 77 })

/-- A fetch under way, and a message delivered to the stager. -/
def fetching (s : State) (f : Fetch) (msgs : List Msg) : State :=
  { s with ups := { s.ups with fetch := some f, messages := msgs } }

/-- The fetch after a command. -/
def fetchAfter (c : Instr) (s : State) : Option Fetch := (out (exec c s)).ups.fetch

theorem witness_FetchSelectsItsSources :
    let s := stagingWith (offering meshed) [.missing, .missing]
    let alone := stagingWith meshed [.missing, .missing]
    let want : Fetch := ⟨some 1, [0, 1], some 7000, none⟩
    let stall : Fetch := ⟨none, [], none, some 7000⟩
    let no := fun (busy : Byte) (n : Node) => (⟨n, kChunkNone, [0, 0, 0, 77, busy, 0]⟩ : Msg)
    answers .fetchFromPeers (given meshed 0x84 []) = ans .refusedState [] ∧
    answers .fetchFromPeers (given (fetching s want []) 0x84 []) = ans .duplicate [] ∧
    (fetchAfter .fetchFromPeers (given s 0x84 []) = some want ∧ sentKind (out (exec .fetchFromPeers (given s 0x84 []))) =
      some (BitVec.ofNat 8 kChunkWant)) ∧
    (reached 5000 5000 = true ∧ fetchAfter .batchDeadline (fetching alone { want with deadline := some 5000 } []) = some stall) ∧
    (reached 5000 5001 = false ∧ fetchAfter .batchDeadline (fetching alone { want with deadline := some 5001 } []) =
      some { want with deadline := some 5001 }) ∧
    fetchAfter .selectionRetry (fetching s { stall with retryAt := some 5000 } []) = some want ∧
    fetchAfter .selectionRetry (fetching s { stall with retryAt := some 5001 } []) = some { stall with retryAt := some 5001 } ∧
    fetchAfter .chunkNone (fetching alone want [no 0 1]) = some stall ∧
    fetchAfter .chunkNone (fetching alone want [no 1 1]) = some want ∧
    fetchAfter .chunkNone (fetching alone want [no 0 2]) = some want ∧
    (alone.nextSource none = none ∧ s.nextSource none = some 1 ∧
      (missingChunks s.ups.map).take 8 = [0, 1]) ∧
    ((alone.selectSource want).exu.arrivals.map (fun r => r.kind)) = [.fetchStalled] := by decide +kernel

/-- R162: the next source in rising order with wrap, the present one last; a batch of none. -/
theorem witness_NextSourceWraps :
    let q := fun (n : Node) => some { peer n (BitVec.ofNat 48 n.val) with activeId := 77 }
    let s := stagingWith { meshed with mlc := { meshed.mlc with peers := #v[q 6, q 1, q 3, none, none, none, none] } } [.present]
    s.nextSource none = some 1 ∧ s.nextSource (some 1) = some 3 ∧ s.nextSource (some 3) = some 6 ∧ s.nextSource (some 6) = some 1 ∧
    (stagingWith (offering meshed) []).nextSource (some 1) = some 1 ∧
    (s.sendWant 3).ups.fetch = some ⟨some 3, [], none, none⟩ := by decide +kernel

theorem witness_FragmentsFillAnAssembly :
    let s := stagingWith running [.missing, .missing]
    let data := fun (k f n : Nat) => (⟨1, kChunkData, be 4 77 ++ be 2 k ++ [BitVec.ofNat 8 f] ++ be 2 n ++ List.replicate n 0⟩ : Msg)
    let held := fun (s : State) (m : Msg) =>
      (out (exec .chunkData { s with ups := { s.ups with messages := [m] } })).ups.bufs.toList.map Option.isSome
    held s (data 0 0 1024) = [true, false, false, false] ∧ held s (data 0 4 1024) = [false, false, false, false] ∧
    held s (data 0 3 1023) = [false, false, false, false] ∧ held s (data 2 0 1024) = [false, false, false, false] ∧
    held (stagingWith running [.present, .missing]) (data 0 0 1024) = [false, false, false, false] ∧
    held running (data 0 0 1024) = [false, false, false, false] ∧
    (let b := fun (opened : Ms) => s.setBuf 0 (some ⟨0, [], none, .assembling [none, none, none, none] opened⟩)
     pastBy 5000 4000 1000 = true ∧ (out (exec (.assemblyTimeout 0) (b 4000))).ups.bufs.get 0 = none ∧
     pastBy 5000 4001 1000 = false ∧ ((out (exec (.assemblyTimeout 0) (b 4001))).ups.bufs.get 0).isSome = true) := by
  decide +kernel

/-- A first, a repeated and a last fragment, and one that finds no free buffer. -/
theorem witness_FragmentsAreTaken :
    let s := stagingWith running [.missing, .missing]
    let a := fun (l : List (Option (List Byte))) => s.setBuf 2 (some ⟨0, [], none, .assembling l 4500⟩)
    let places := fun (t : State) (b : Fin 4) => (t.ups.bufs.get b).map fun x => x.phase
    places (s.takeFragment 0 2048 1 [7]) 0 = some (.assembling [none, some [7]] 5000) ∧
    places ((a [none, some [7]]).takeFragment 0 2048 1 [8]) 2 = some (.assembling [none, some [7]] 4500) ∧
    ((a [none, some [7]]).takeFragment 0 2048 0 [8]).exu.arrivals = [⟨.chunkFailed, 0, 5000, [0]⟩] ∧
    (busy s).takeFragment 1 4 0 [8] = busy s := by decide +kernel

theorem witness_ChunksAreListedAndServed :
    let s := stagingWith meshed [.present, .missing]
    let want : Msg := ⟨1, kChunkWant, be 4 77 ++ [2] ++ be 2 0 ++ be 2 1⟩
    let asked := { s with ups := { s.ups with messages := [want] } }
    let full := { asked with ups := { asked.ups with serves := List.replicate 32 ⟨2, 5, 0⟩ } }
    let listed := fun (last : Option Us) (e : Serve) => { s with ups := { s.ups with serves := [e], lastServe := last } }
    ((asked.servable 77 0).isSome = true ∧ asked.servable 77 1 = none ∧
      (out (exec .chunkWant asked)).ups.serves = [⟨1, 77, 0⟩] ∧
      sentKind (out (exec .chunkWant asked)) = some (BitVec.ofNat 8 kChunkNone)) ∧
    (out (exec .chunkWant full)).ups.serves.length = 32 ∧
    (out (exec .serveStart (listed none ⟨1, 77, 0⟩))).ups.serving = some ⟨1, 77, 0⟩ ∧
    ((5000000 - 4980000 : Us).toNat = s.ups.serveGap * 1000 ∧
      (out (exec .serveStart (listed (some 4980000) ⟨1, 77, 0⟩))).ups.serving = some ⟨1, 77, 0⟩) ∧
    (out (exec .serveStart (listed (some 4980001) ⟨1, 77, 0⟩))).ups.serves = [⟨1, 77, 0⟩] ∧
    (out (exec .serveStart (listed none ⟨1, 77, 1⟩))).ups.serves = [] ∧
    ((listed none ⟨2, 77, 0⟩).peerPresent 2 = false ∧
      (out (exec .serveStart (listed none ⟨2, 77, 0⟩))).ups.serving = none) := by decide +kernel

/-- A serve of another image ends for nobody, one of the active image goes on (R157, R163). -/
theorem witness_ServesOfOtherImagesEnd :
    let s := fun (id : Word) => { running with
      ups := { running.ups with serves := [⟨1, 0, 0⟩, ⟨1, 9, 0⟩], serving := some ⟨1, id, 0⟩ }
      fls := { running.fls with op := some (⟨.serve, .read, 0x102000, 4096, [], .serve⟩, 0) } }
    (running.activeId = 0 ∧ (s 0).dropServes.ups.serving = some ⟨1, 0, 0⟩ ∧ (s 0).dropServes.ups.serves = [⟨1, 0, 0⟩]) ∧
    ((s 9).dropServes.ups.serving = none ∧ (s 9).dropServes.fls.op.map (fun p => p.1.owner) = some .nobody) := by
  decide +kernel

/-- A serve of two fragments that join, one that does not, and the gap at the tenth and after a loss (R163). -/
theorem witness_ServesEnd :
    let s := fun (clean gap : Nat) => { stagingWith meshed [.present, .missing] with
      ups := { (stagingWith meshed [.present, .missing]).ups with
        serving := some ⟨1, 77, 0⟩, cleanServes := clean, serveGap := gap }
      fls := { running.fls with op := some (⟨.serve, .read, 0x882000, 1025, [], .serve⟩, 4000000) } }
    let after := fun (t : State) => (out (exec (.flashOperationComplete (List.replicate 1025 0)) t))
    (after (s 8 25)).ups.cleanServes = 9 ∧ (after (s 9 41)).ups.serveGap = 20 ∧ (after (s 9 39)).ups.serveGap = 20 ∧
    ((after (s 8 25)).port .mesh).queue .update ≠ [] ∧
    (let t := { s 8 25 with mlc := { (s 8 25).mlc with enable := false } }
     (after t).ups.serveGap = 50 ∧ (after t).ups.cleanServes = 0) ∧
    (let t := { s 8 640 with mlc := { (s 8 640).mlc with enable := false } }
     (after t).ups.serveGap = 1280) := by decide +kernel

/-! ## Install -/

theorem witness_InstallIsGrantedOrDeferred :
    let params := fun (a b : Nat) => [(0xFF : Byte)] ++ le 2 a ++ le 2 b ++ [0] ++ le 2 4
    let ready := { stager (clocked running) .complete with
      ups := { (stager (clocked running) .complete).ups with window := ⟨0x7F, 1439, 1⟩ } }
    answers .setUpdateWindow (given running 0x85 (params 1440 0)) = ans .badParam [] ∧
    answers .setUpdateWindow (given running 0x85 (params 0 1440)) = ans .badParam [] ∧
    answers .setUpdateWindow (given running 0x85 (params 1439 1439)) =
      ans .ok ([0x7F] ++ le 2 1439 ++ le 2 1439 ++ [1] ++ le 2 5) ∧
    answers .requestInstall (given (stager running .hold) 0x86 []) = ans .ok [] ∧
    (ready.windowOpen ready.ups.window (ready.sck.weekday, ready.sck.minute) = true ∧ ready.gameQuiet = true ∧
      answers .requestInstall (given ready 0x86 []) = ans .ok [] ∧
      (out (exec .requestInstall (given ready 0x86 []))).ups.state = .hold) ∧
    answers .requestInstall (given running 0x86 []) = [⟨7, .deferred, 7, []⟩] ∧
    answers .requestInstall (given (sta0 ready .offering) 0x86 []) = [⟨7, .deferred, 16, []⟩] ∧
    ((out (exec .requestInstall (given (sta0 ready .watched) 0x86 []))).sta 0).state = .active ∧
    answers .requestInstall (given { ready with flc := { ready.flc with lastGame := some 4000 } } 0x86 []) =
      [⟨7, .deferred, 8, []⟩] := by decide +kernel

theorem witness_HoldEndsByMinuteCancelOrCommit :
    let held := fun (n : Nat) (st : Staging) =>
      { running with ups := { running.ups with state := st, minutes := [⟨none, 5000⟩], holdMinutes := n, manifest := some image } }
    let hold := stager (stagingWith running []) .hold
    (out (exec .holdMinuteCount (held 29 .complete))).ups.holdMinutes = 29 ∧
    ((out (exec .holdMinuteCount (held 29 .hold))).ups.state = .complete ∧
      (out (exec .holdMinuteCount (held 29 .hold))).exu.arrivals = [⟨.holdEnd, 0, 5000, [2]⟩]) ∧
    (out (exec .holdMinuteCount (held 28 .hold))).ups.holdMinutes = 29 ∧
    answers .cancelInstall (given hold 0x88 []) = ans .ok [] ∧
    answers .cancelInstall (given running 0x88 []) = ans .refusedState [] ∧
    workAfter .commitImage (given hold 0x87 []) = .slotErase 7 ⟨.b, .a, true, 3, 0, 77⟩ true ∧
    answers .commitImage (given running 0x87 []) = ans .refusedState [] ∧
    workAfter .confirmImage (given (onTrial running) 0x89 []) = .slotErase 7 { trialRecord with trial := false, remaining := 0 } false ∧
    answers .confirmImage (given running 0x89 []) = ans .refusedState [] ∧
    (let s := { held 29 .hold with ups := { (held 29 .hold).ups with work := .slotErase 7 trialRecord true } }
     s.committing = true ∧ (out (exec .holdMinuteCount s)).ups.state = .hold) := by decide +kernel

/-- The slot record write of a commit and of a confirm, to its end and at a failure. -/
theorem witness_SlotRecordIsWritten :
    let hold := { stager (stagingWith running []) .hold with exu := (given running 0x87 []).exu }
    let on_ := fun (s : State) (k : FlashKind) (w : UpsWork) => { flashed k 4096 w s with
      fls := { (flashed k 4096 w s).fls with op := some (⟨.slotRecord, k, 0x0FF000, 4096, [], .work⟩, 4000000) } }
    let after := fun (s : State) => out (exec (.flashOperationComplete []) s)
    (after (on_ hold .erase (.slotErase 7 trialRecord true))).ups.work = .slotProgram 7 trialRecord true ∧
    (let t := after (on_ hold .program (.slotProgram 7 trialRecord true))
     t.ups.state = .idle ∧ t.fls.slot = trialRecord ∧ t.fls.activeManifest = some image ∧
     t.exu.arrivals = [⟨.holdEnd, 0, 5000, [0]⟩] ∧ t.exu.answers = ans .ok []) ∧
    (let t := after (on_ hold .program (.slotProgram 7 trialRecord false))
     t.ups.state = .hold ∧ t.fls.slot = trialRecord) ∧
    (let t := out (exec .flashTimeout (on_ hold .erase (.slotErase 7 trialRecord true)))
     t.ups.state = .hold ∧ t.exu.answers = ans .flashError []) ∧
    (let t := out (exec .flashTimeout (on_ { hold with ups := { hold.ups with holdMinutes := 30 } } .erase
       (.slotErase 7 trialRecord true)))
     t.ups.state = .complete) := by decide +kernel

end Sys2Proof.Tests
end

section
/-!
PROOFS. The statements about the classification of flows, and those about departures, candidate tables and offers that
lean on the same operations: O26, O31, O33, O45 and O46.
-/

namespace Sys2Proof.Machine.FlowClassification

open Sys2Proof Sys2Proof.Machine

/-! ## Bytes and numbers (R167) -/

/-- One byte more of a number written most significant byte first. -/
theorem be_succ (n v : Nat) : be (n + 1) v = be n (v / 256) ++ [BitVec.ofNat 8 v] := by simp [be, le]

@[simp] theorem length_be (n v : Nat) : (be n v).length = n := by simp [be]

/-- A byte of the middle part of a sequence is a byte of that part. -/
theorem byteAt_append_right (a b : List Byte) (i : Nat) : byteAt (a ++ b) (a.length + i) = byteAt b i := by
  simp [byteAt, List.getElem?_append_right]

/-- A number written into a sequence is read back from its place. -/
theorem beAt_be (a c : List Byte) (n v : Nat) (h : v < 256 ^ n) : beAt (a ++ (be n v ++ c)) a.length n = v := by
  induction n generalizing v c with
  | zero => exact (Nat.lt_one_iff.1 h).symm
  | succ n ih =>
    have hv : v / 256 < 256 ^ n := by rw [Nat.pow_succ] at h; omega
    have hlast : byteAt (a ++ (be (n + 1) v ++ c)) (a.length + n) = BitVec.ofNat 8 v := by
      rw [byteAt_append_right, be_succ, List.append_assoc]
      simp [byteAt]
    rw [beAt_succ, hlast, be_succ, List.append_assoc, ih _ _ hv, BitVec.toNat_ofNat]
    omega

/-- A number read from a sequence and written again gives the bytes it was read from. -/
theorem be_beAt (l : List Byte) (i n : Nat) (h : i + n ≤ l.length) : be n (beAt l i n) = (l.drop i).take n := by
  induction n with
  | zero => simp [be, le]
  | succ n ih =>
    have hb := (byteAt l (i + n)).isLt
    have hdiv : (beAt l i n * 256 + (byteAt l (i + n)).toNat) / 256 = beAt l i n := by omega
    have hlast : (l.drop i)[n]? = some (byteAt l (i + n)) := by
      simp [byteAt, List.getElem?_eq_getElem (show i + n < l.length by omega)]
    rw [beAt_succ, be_succ, hdiv, ih (by omega), List.take_add_one, hlast]
    congr 2
    apply BitVec.eq_of_toNat_eq
    rw [BitVec.toNat_ofNat]
    omega

/-- A number shifted up by whole bytes is written with zero bytes after it. -/
theorem be_mul_pow (n k v : Nat) : be (n + k) (v * 256 ^ k) = be n v ++ List.replicate k 0 := by
  induction k with
  | zero => simp
  | succ k ih =>
    have hdiv : v * 256 ^ (k + 1) / 256 = v * 256 ^ k := by
      rw [Nat.pow_succ, ← Nat.mul_assoc, Nat.mul_div_cancel _ (by decide)]
    have hbyte : BitVec.ofNat 8 (v * 256 ^ (k + 1)) = 0 := by
      apply BitVec.eq_of_toNat_eq
      rw [BitVec.toNat_ofNat, Nat.pow_succ, ← Nat.mul_assoc]
      simp
    rw [← Nat.add_assoc, be_succ, hdiv, hbyte, ih, List.replicate_succ', List.append_assoc]

/-- A number of `n` bytes is kept by a field of at least that many bits. -/
theorem toNat_ofNat_beAt (w n : Nat) (hw : 256 ^ n ≤ 2 ^ w) (l : List Byte) (i : Nat) :
    (BitVec.ofNat w (beAt l i n)).toNat = beAt l i n := by
  rw [BitVec.toNat_ofNat, Nat.mod_eq_of_lt (Nat.lt_of_lt_of_le (beAt_lt l i n) hw)]

theorem half_beAt (l : List Byte) (i : Nat) : (BitVec.ofNat 16 (beAt l i 2)).toNat = beAt l i 2 :=
  toNat_ofNat_beAt 16 2 (by decide) l i

/-! ## What a frame gives the classifier (R45) -/

/-- The header checks of an IPv4 frame. -/
def IsIpv4 (f : List Byte) : Prop :=
  beAt f 12 2 = 0x0800 ∧ (byteAt f 14).toNat / 16 = 4 ∧ 5 ≤ (byteAt f 14).toNat % 16 ∧
    14 + 4 * ((byteAt f 14).toNat % 16) ≤ f.length

/-- The header checks of an IPv6 frame. -/
def IsIpv6 (f : List Byte) : Prop := beAt f 12 2 = 0x86DD ∧ (byteAt f 14).toNat / 16 = 6 ∧ 54 ≤ f.length

/-- What is read from an IPv4 frame. -/
def ipv4Info (f : List Byte) : IpInfo :=
  let ports := portsAt f (14 + (byteAt f 14).toNat % 16 * 4) (byteAt f 23).toNat (beAt f 20 2 % 8192 == 0)
  ⟨4, byteOf (byteAt f 23).toNat, addressAt f 26 4, addressAt f 30 4, ports.1, ports.2,
    BitVec.ofNat 6 ((byteAt f 15).toNat / 4)⟩

/-- What is read from an IPv6 frame. -/
def ipv6Info (f : List Byte) : IpInfo :=
  let ports := portsAt f 54 (byteAt f 20).toNat true
  ⟨6, byteOf (byteAt f 20).toNat, addressAt f 22 16, addressAt f 38 16, ports.1, ports.2,
    BitVec.ofNat 6 (((byteAt f 14).toNat % 16 * 16 + (byteAt f 15).toNat / 16) / 4)⟩

theorem frameType_eq_iff (f : List Byte) (t : Nat) (ht : t < 65536) :
    frameType f = BitVec.ofNat 16 t ↔ beAt f 12 2 = t := by
  rw [frameType, ← BitVec.toNat_inj, half_beAt, BitVec.toNat_ofNat, Nat.mod_eq_of_lt ht]

theorem ipInfo_of_ipv4 {f : List Byte} (h : IsIpv4 f) : ipInfo f = some (ipv4Info f) := by
  obtain ⟨ht, hv, hw, hl⟩ := h
  have hc : (byteAt f 14).toNat / 16 = 4 ∧ 5 ≤ (byteAt f 14).toNat % 16 ∧
    14 + (byteAt f 14).toNat % 16 * 4 ≤ f.length := ⟨hv, hw, by omega⟩
  exact (if_pos ((frameType_eq_iff f 0x0800 (by decide)).2 ht)).trans (if_pos hc)

theorem ipInfo_of_ipv6 {f : List Byte} (h : IsIpv6 f) : ipInfo f = some (ipv6Info f) := by
  obtain ⟨ht, hc⟩ := h
  have h4 : ¬frameType f = BitVec.ofNat 16 0x0800 := by rw [frameType_eq_iff f _ (by decide), ht]; decide
  exact (if_neg h4).trans ((if_pos ((frameType_eq_iff f 0x86DD (by decide)).2 ht)).trans (if_pos hc))

theorem ipInfo_of_neither {f : List Byte} (h4 : ¬IsIpv4 f) (h6 : ¬IsIpv6 f) : ipInfo f = none := by
  unfold ipInfo
  dsimp only
  split
  · next ht =>
    refine if_neg fun hc => h4 ?_
    obtain ⟨hv, hw, hl⟩ := hc
    exact ⟨(frameType_eq_iff f 0x0800 (by decide)).1 ht, hv, hw, by rw [Nat.mul_comm]; exact hl⟩
  · split
    · next ht => exact if_neg fun hc => h6 ⟨(frameType_eq_iff f 0x86DD (by decide)).1 ht, hc⟩
    · rfl

theorem ipInfo_eq_none_iff (f : List Byte) : ipInfo f = none ↔ ¬IsIpv4 f ∧ ¬IsIpv6 f := by
  refine ⟨fun h => ⟨fun h4 => ?_, fun h6 => ?_⟩, fun h => ipInfo_of_neither h.1 h.2⟩
  · rw [ipInfo_of_ipv4 h4] at h; cases h
  · rw [ipInfo_of_ipv6 h6] at h; cases h

/-- An address of `n` of the 16 bytes is written as its bytes in the frame and zero bytes after them. -/
theorem be_addressAt (f : List Byte) (i n k : Nat) (hk : n + k = 16) (h : i + n ≤ f.length) :
    be 16 (addressAt f i n).toNat = (f.drop i).take n ++ List.replicate k 0 := by
  have hlt : beAt f i n * 256 ^ k < 2 ^ 128 := by
    calc beAt f i n * 256 ^ k < 256 ^ n * 256 ^ k := Nat.mul_lt_mul_of_pos_right (beAt_lt f i n) (Nat.pow_pos (by decide))
      _ = 256 ^ 16 := by rw [← Nat.pow_add, hk]
      _ = 2 ^ 128 := by decide
  have hsub : 16 - n = k := by omega
  rw [addressAt, BitVec.toNat_ofNat, hsub, Nat.mod_eq_of_lt hlt, ← hk, be_mul_pow, be_beAt f i n h]

/-- The ports are the four bytes at their place, or 0. -/
theorem portsAt_spec (f : List Byte) (i : Nat) (p : Byte) (first : Bool) :
    let has := (p = 6 ∨ p = 17) ∧ i + 4 ≤ f.length ∧ first = true
    (has → (portsAt f i p.toNat first).1.toNat = beAt f i 2 ∧ (portsAt f i p.toNat first).2.toNat = beAt f (i + 2) 2) ∧
    (¬has → (portsAt f i p.toNat first).1 = 0 ∧ (portsAt f i p.toNat first).2 = 0) := by
  have hp : (p = 6 ∨ p = 17) ↔ (p.toNat = 6 ∨ p.toNat = 17) := by simp [← BitVec.toNat_inj]
  intro has
  have hc : (first && (p.toNat == 6 || p.toNat == 17) && decide (i + 4 ≤ f.length)) = true ↔ has := by
    simp only [has, hp, Bool.and_eq_true, Bool.or_eq_true, beq_iff_eq, decide_eq_true_eq]
    exact ⟨fun ⟨⟨hf, hn⟩, hl⟩ => ⟨hn, hl, hf⟩, fun ⟨hn, hl, hf⟩ => ⟨⟨hf, hn⟩, hl⟩⟩
  unfold portsAt
  refine ⟨fun h => ?_, fun h => ?_⟩
  · rw [if_pos (hc.2 h)]
    exact ⟨half_beAt f i, half_beAt f (i + 2)⟩
  · rw [if_neg (fun hf => h (hc.1 hf))]
    exact ⟨rfl, rfl⟩

@[simp] theorem byteOf_toNat (b : Byte) : byteOf b.toNat = b := BitVec.eq_of_toNat_eq (by simp [byteOf])

/-! ## The flow key (R46) -/

/-- The source of a frame is endpoint A: it is the smaller one, or both are equal. -/
def SourceFirst (x : IpInfo) : Prop :=
  x.source.toNat < x.dest.toNat ∨ (x.source.toNat = x.dest.toNat ∧ x.sourcePort.toNat ≤ x.destPort.toNat)

/-- The frame of the other direction. -/
def reversed (x : IpInfo) : IpInfo :=
  { x with source := x.dest, dest := x.source, sourcePort := x.destPort, destPort := x.sourcePort }

theorem key_of_sourceFirst {x : IpInfo} (h : SourceFirst x) :
    x.key = ⟨x.version, x.protocol, x.source, x.sourcePort, x.dest, x.destPort⟩ :=
  if_pos (by simpa only [SourceFirst, BitVec.lt_def, BitVec.le_def, ← BitVec.toNat_inj] using h)

theorem key_of_destFirst {x : IpInfo} (h : ¬SourceFirst x) :
    x.key = ⟨x.version, x.protocol, x.dest, x.destPort, x.source, x.sourcePort⟩ :=
  if_neg (by simpa only [SourceFirst, BitVec.lt_def, BitVec.le_def, ← BitVec.toNat_inj] using h)

/-- Both directions of a flow give one key: only of equal endpoints are both the first. -/
theorem key_reversed (x : IpInfo) : (reversed x).key = x.key := by
  by_cases h : SourceFirst x
  · rw [key_of_sourceFirst h]
    by_cases hr : SourceFirst (reversed x)
    · have hs : x.source = x.dest := BitVec.eq_of_toNat_eq (by simp only [SourceFirst, reversed] at h hr; omega)
      have hp : x.sourcePort = x.destPort := BitVec.eq_of_toNat_eq (by simp only [SourceFirst, reversed] at h hr; omega)
      rw [key_of_sourceFirst hr]
      simp only [reversed, hs, hp]
    · rw [key_of_destFirst hr, reversed]
  · have hr : SourceFirst (reversed x) := by simp only [SourceFirst, reversed] at h ⊢; omega
    rw [key_of_destFirst h, key_of_sourceFirst hr, reversed]

@[simp] theorem length_key_bytes (k : FlowKey) : k.bytes.length = 38 := by simp [FlowKey.bytes]

/-- The key bytes hold the six fields in their places. -/
theorem key_bytes_spec (k : FlowKey) :
    byteAt k.bytes 0 = k.version ∧ byteAt k.bytes 1 = k.protocol ∧
    beAt k.bytes 2 16 = k.addrA.toNat ∧ beAt k.bytes 18 2 = k.portA.toNat ∧
    beAt k.bytes 20 16 = k.addrB.toNat ∧ beAt k.bytes 36 2 = k.portB.toNat := by
  have field : ∀ (a c : List Byte) (n v : Nat), v < 256 ^ n → k.bytes = a ++ (be n v ++ c) →
      beAt k.bytes a.length n = v := fun a c n v hv hk => by rw [hk, beAt_be a c n v hv]
  refine ⟨rfl, rfl, ?_, ?_, ?_, ?_⟩
  · refine field [k.version, k.protocol] (be 2 k.portA.toNat ++ be 16 k.addrB.toNat ++ be 2 k.portB.toNat) 16 _
      k.addrA.isLt ?_
    simp only [FlowKey.bytes, List.append_assoc]
  · have h := field ([k.version, k.protocol] ++ be 16 k.addrA.toNat) (be 16 k.addrB.toNat ++ be 2 k.portB.toNat) 2 _
      k.portA.isLt (by simp only [FlowKey.bytes, List.append_assoc])
    simpa using h
  · have h := field ([k.version, k.protocol] ++ be 16 k.addrA.toNat ++ be 2 k.portA.toNat) (be 2 k.portB.toNat) 16 _
      k.addrB.isLt (by simp only [FlowKey.bytes, List.append_assoc])
    simpa using h
  · have h := field ([k.version, k.protocol] ++ be 16 k.addrA.toNat ++ be 2 k.portA.toNat ++ be 16 k.addrB.toNat) [] 2 _
      k.portB.isLt (by simp only [FlowKey.bytes, List.append_assoc, List.append_nil])
    simpa using h

/-- The CRC-32 of one byte more goes on from the register (R168). -/
theorem crc32_snoc (l : List Byte) (b : Byte) :
    crc32 (l ++ [b]) = crcByte (crc32 l ^^^ 0xFFFFFFFF#32) b ^^^ 0xFFFFFFFF#32 := by
  simp only [crc32, List.foldl_append, List.foldl_cons, List.foldl_nil, BitVec.xor_assoc, BitVec.xor_self,
    BitVec.xor_zero]

/-! ## Stages and orders -/

/-- A frame that waits for a stage is worked by it. -/
theorem workStage_of_some {p : PortId} {g : Stage} {s : State} {x : Ingress} (f : Ingress → State → State)
    (h : (s.port p).ingress = some x) (hg : x.stage = g) : workStage p g f s = .next (f x s) := by
  simp only [workStage, h, hg, if_true]

/-- Settles O26: the header checks decide what a frame gives, and the two directions differ only in which endpoint is
the source. -/
theorem frameGivesItsNormalizedFlowKey : Obligations.FrameGivesItsNormalizedFlowKey := by
  refine ⟨fun f => ?_, fun s p x hx hg hn => ?_, fun x => ?_, ?_⟩
  · refine ⟨ipInfo_eq_none_iff f, fun x hx (h4 : IsIpv4 f) => ?_, fun x hx (h6 : IsIpv6 f) => ?_⟩
    · have hlen : 34 ≤ f.length := by obtain ⟨-, -, hw, hl⟩ := h4; omega
      rw [ipInfo_of_ipv4 h4] at hx
      cases hx
      refine ⟨rfl, byteOf_toNat _, ?_, be_addressAt f 26 4 12 rfl (by omega), be_addressAt f 30 4 12 rfl (by omega), ?_⟩
      · have := (byteAt f 15).isLt
        exact Nat.mod_eq_of_lt (by omega)
      · have hp := portsAt_spec f (14 + 4 * ((byteAt f 14).toNat % 16)) (byteAt f 23) (beAt f 20 2 % 8192 == 0)
        simpa only [ipv4Info, byteOf_toNat, beq_iff_eq, Nat.mul_comm] using hp
    · have hlen : 54 ≤ f.length := h6.2.2
      rw [ipInfo_of_ipv6 h6] at hx
      cases hx
      refine ⟨rfl, byteOf_toNat _, ?_, ?_, ?_, ?_⟩
      · have h0 := (byteAt f 14).isLt
        have h1 := (byteAt f 15).isLt
        exact Nat.mod_eq_of_lt (by omega)
      · simpa [ipv6Info] using be_addressAt f 22 16 0 rfl (by omega)
      · simpa [ipv6Info] using be_addressAt f 38 16 0 rfl (by omega)
      · simpa only [ipv6Info, byteOf_toNat] using portsAt_spec f 54 (byteAt f 20) true
  · change execFlowLookup p s = _
    rw [execFlowLookup, workStage_of_some _ hx hg]
    simp only [hn, State.classed]
  · obtain ⟨hv, hp, ha, hpa, hb, hpb⟩ := key_bytes_spec x.key
    exact ⟨key_reversed x, key_of_sourceFirst, key_of_destFirst, length_key_bytes _, hv, hp, ha, hpa, hb, hpb, rfl⟩
  · exact ⟨by decide, crc32_snoc, by decide +kernel⟩

end Sys2Proof.Machine.FlowClassification
end

section
/-!
PROOFS. The orders of the Flow Classifier (R60 to R62, R65): O31.
-/

namespace Sys2Proof.Machine.FlowClassification

open Sys2Proof Sys2Proof.Machine

/-! ## The codes of a rule's fields (Table 11-1) -/

theorem finOf_eq_none_iff {n k : Nat} : finOf n k = none ↔ n ≤ k := by simp [finOf]

theorem ruleStageOf_of_gt {n : Nat} (h : 1 < n) : ruleStageOf n = none := by
  obtain ⟨k, rfl⟩ := Nat.exists_eq_add_of_le' h
  rfl

theorem ruleStageOf_of_le {n : Nat} (h : n ≤ 1) : ruleStageOf n = some (if n = 0 then .one else .two) := by
  match n, h with
  | 0, _ => rfl
  | 1, _ => rfl

theorem familyOf_of_gt {n : Nat} (h : 2 < n) : familyOf n = none := by
  obtain ⟨k, rfl⟩ := Nat.exists_eq_add_of_le' h
  rfl

theorem familyOf_of_le {n : Nat} (h : n ≤ 2) :
    familyOf n = some (if n = 0 then .any else if n = 1 then .ipv4 else .ipv6) := by
  match n, h with
  | 0, _ => rfl
  | 1, _ => rfl
  | 2, _ => rfl

theorem responseOf_of_gt {n : Nat} (h : 2 < n) : responseOf n = none := by
  obtain ⟨k, rfl⟩ := Nat.exists_eq_add_of_le' h
  rfl

theorem responseOf_of_le {n : Nat} (h : n ≤ 2) :
    responseOf n = some (if n = 0 then .terminal else if n = 1 then .pass else .drop) := by
  match n, h with
  | 0, _ => rfl
  | 1, _ => rfl
  | 2, _ => rfl

theorem classOfCode_of_gt {n : Nat} (h : 5 < n) : classOfCode n = none := by
  obtain ⟨k, rfl⟩ := Nat.exists_eq_add_of_le' h
  rfl

theorem ruleClassOf_eq_none {n : Nat} (h : n = 0 ∨ 5 < n) : ruleClassOf n = none := by
  rcases h with rfl | h
  · rfl
  · simp only [ruleClassOf, classOfCode_of_gt h]

theorem ruleClassOf_classIx {c : TClass} (h : (classIx c).val ≠ 0) : ruleClassOf (classIx c).val = some c := by
  cases c
  case ctrl => exact absurd rfl h
  all_goals rfl

theorem selectorOf_eq_none {l : List Byte} {i : Nat}
    (h : 2 < (byteAt l i).toNat ∨ ((byteAt l i).toNat = 2 ∧ 15 < (byteAt l (i + 1)).toNat)) : selectorOf l i = none := by
  rcases h with h | ⟨h, hp⟩
  · obtain ⟨k, hk⟩ := Nat.exists_eq_add_of_le' h
    simp only [selectorOf, hk]
  · simp only [selectorOf, h, finOf_eq_none_iff.2 hp, Option.map_none]

/-- The selector of each kind, with what its kind uses. -/
theorem selectorOf_of_kind {l : List Byte} {i : Nat} {x : Selector}
    (h : ((byteAt l i).toNat = 0 ∧ x = .any) ∨ ((byteAt l i).toNat = 1 ∧ x = .mac (macAt l (i + 1))) ∨
      ∃ p : ProfIx, (byteAt l i).toNat = 2 ∧ p.val = (byteAt l (i + 1)).toNat ∧ x = .profile p) :
    selectorOf l i = some x := by
  rcases h with ⟨h, rfl⟩ | ⟨h, rfl⟩ | ⟨p, h, hp, rfl⟩
  · simp only [selectorOf, h]
  · simp only [selectorOf, h]
  · simp only [selectorOf, h, ← hp, finOf_val, Option.map_some]

/-- What makes a SET_RULE BAD_PARAM (R60 step 1). -/
def BadRule (o : Order) : Prop :=
  63 < o.u8 0 ∨ 1 < o.u8 2 ∨ 7 < o.u8 3 ∨ 2 < o.u8 6 ∨ 2 < o.u8 35 ∨ (o.u8 35 = 2 ∧ 15 < o.u8 36) ∨
    2 < o.u8 42 ∨ o.u8 43 = 0 ∨ 5 < o.u8 43

/-- Each bad field alone leaves a SET_RULE without a rule. -/
theorem ruleOf_of_bad {o : Order} (h : BadRule o) : ruleOf o = none := by
  unfold ruleOf
  split
  · next hi hs hf hx hr hc =>
    refine if_pos (Classical.byContradiction fun hg => ?_)
    rcases h with h | h | h | h | h | h | h | h
    · rw [finOf_eq_none_iff.2 h] at hi; cases hi
    · rw [ruleStageOf_of_gt h] at hs; cases hs
    · exact hg h
    · rw [familyOf_of_gt h] at hf; cases hf
    · rw [selectorOf_eq_none (.inl h)] at hx; cases hx
    · rw [selectorOf_eq_none (.inr h)] at hx; cases hx
    · rw [responseOf_of_gt h] at hr; cases hr
    · rw [ruleClassOf_eq_none h] at hc; cases hc
  · rfl

/-- The rule that parameters without a bad field write. -/
theorem ruleOf_of_good {o : Order} {i : Fin 64} {x : Selector} {c : TClass} (h : ¬BadRule o) (hi : i.val = o.u8 0)
    (hc : (classIx c).val = o.u8 43) (hx : selectorOf o.params 35 = some x) :
    ruleOf o = some (i,
      { enabled := o.flag 1, stage := if o.u8 2 = 0 then .one else .two, armGroup := byteAt o.params 3
        protoValue := byteAt o.params 4, protoMask := byteAt o.params 5
        family := if o.u8 6 = 0 then .any else if o.u8 6 = 1 then .ipv4 else .ipv6
        addr := BitVec.ofNat 128 (beAt o.params 7 16)
        prefixLen := min (if o.u8 6 = 0 then 0 else if o.u8 6 = 1 then 32 else 128) (o.u8 23)
        portLow := BitVec.ofNat 16 (o.u16 24), portHigh := BitVec.ofNat 16 (o.u16 26), invert := o.flag 28
        dscpValue := BitVec.ofNat 6 (o.u8 29), dscpMask := BitVec.ofNat 6 (o.u8 30)
        lengthLow := min 2048 (max 60 (o.u16 31)), lengthHigh := min 2048 (max 60 (o.u16 33))
        selector := x
        response := if o.u8 42 = 0 then .terminal else if o.u8 42 = 1 then .pass else .drop
        cls := c, listed := (byteAt o.params 44).getLsbD 0, report := (byteAt o.params 44).getLsbD 1
        arm := (byteAt o.params 44).getLsbD 2, armTime := min 600 (max 1 (o.u16 45)), hits := 0 }) := by
  simp only [BadRule, not_or, Nat.not_lt] at h
  obtain ⟨-, hstage, hgroup, hfamily, -, -, hresp, hclass, -⟩ := h
  have hcls : ruleClassOf (o.u8 43) = some c := by rw [← hc]; exact ruleClassOf_classIx (by rw [hc]; exact hclass)
  have hlimit : prefixLimit (if o.u8 6 = 0 then .any else if o.u8 6 = 1 then .ipv4 else .ipv6) =
      if o.u8 6 = 0 then 0 else if o.u8 6 = 1 then 32 else 128 := by
    split
    · rfl
    · split <;> rfl
  have hgr : byteOf (o.u8 3) = byteAt o.params 3 := byteOf_toNat _
  unfold ruleOf
  rw [← hi, finOf_val, ruleStageOf_of_le hstage, familyOf_of_le hfamily, hx, responseOf_of_le hresp, hcls]
  dsimp only
  rw [if_neg (Nat.not_lt.2 hgroup), hlimit, hgr]
  simp only [clamp, Nat.zero_max]

/-! ## The flow table and the game condition -/

/-- A count of flow records counts those of the table that satisfy the test. -/
theorem countFlows_eq (s : State) (p : Flow → Bool) : s.countFlows p =
    ((s.flc.sets.toList.map fun (v : Vector (Option Flow) 4) => v.toList.filterMap id).flatten.filter p).length := by
  have ways : ∀ l : List (Option Flow), (l.filter fun w => match w with
      | some f => p f
      | none => false).length = ((l.filterMap id).filter p).length := by
    intro l
    induction l with
    | nil => rfl
    | cons w l ih => cases w <;> simp [List.filter_cons, apply_ite List.length, ih]
  unfold State.countFlows
  rw [List.filter_flatten, List.length_flatten, List.map_map, List.map_map]
  congr 1
  exact List.map_congr_left fun v _ => ways v.toList

/-- The five limits, one by one. -/
theorem limitsOf_eq (o : Order) : limitsOf o = #v[clamp 1 3600 (o.u16 0), clamp 1 3600 (o.u16 2),
    clamp 1 3600 (o.u16 4), clamp 1 3600 (o.u16 6), clamp 1 3600 (o.u16 8)] := rfl

/-! ## The orders -/

theorem exec_setRule_of_none {s : State} {o : Order} (h : s.freshHead .flc 0x20 = some o) (hr : ruleOf o = none) :
    exec .setRule s = .next (s.refuse o .badParam) := by
  change execSetRule s = _
  simp only [execSetRule, workOrder_of_some _ h, hr]

theorem exec_setRule_of_some {s : State} {o : Order} {i : Fin 64} {r : Rule} (h : s.freshHead .flc 0x20 = some o)
    (hr : ruleOf o = some (i, r)) :
    exec .setRule s = .next ((s.writeRule i r).accept o ([byteOf i.val] ++ le 2 (s.ruleFlows i))) := by
  change execSetRule s = _
  simp only [execSetRule, workOrder_of_some _ h, hr]

theorem exec_clearRule_of_gt {s : State} {o : Order} (h : s.freshHead .flc 0x21 = some o) (hi : 63 < o.u8 0) :
    exec .clearRule s = .next (s.refuse o .badParam) := by
  change execClearRule s = _
  simp only [execClearRule, workOrder_of_some _ h, finOf_eq_none_iff.2 hi]

theorem exec_clearRule_of_index {s : State} {o : Order} {i : Fin 64} (h : s.freshHead .flc 0x21 = some o)
    (hi : i.val = o.u8 0) :
    exec .clearRule s = .next ((s.writeRule i Rule.clear).accept o ([byteOf i.val] ++ le 2 (s.ruleFlows i))) := by
  change execClearRule s = _
  simp only [execClearRule, workOrder_of_some _ h, ← hi, finOf_val]

theorem exec_setFlowTimes_of_head {s : State} {o : Order} (h : s.freshHead .flc 0x22 = some o) :
    exec .setFlowTimes s = .next (State.accept { s with flc := { s.flc with limits := limitsOf o } } o
      ((limitsOf o).toList.map (le 2)).flatten) := by
  change execSetFlowTimes s = _
  rw [execSetFlowTimes, workOrder_of_some _ h]

theorem exec_setQuiet_of_head {s : State} {o : Order} (h : s.freshHead .flc 0x23 = some o) :
    let t := { s with flc := { s.flc with quiet := clamp 1 60 (o.u8 0) } }
    exec .setQuiet s = .next (t.accept o ([byteOf (clamp 1 60 (o.u8 0)), flagByte t.gameQuiet] ++ le 4 t.sinceGame)) := by
  change execSetQuiet s = _
  rw [execSetQuiet, workOrder_of_some _ h]

/-- Settles O31: the tests of R60 are those under which the parameters give no rule, and each order then writes its own
fields. -/
theorem rulesAndFlowSettingsAreWritten : Obligations.RulesAndFlowSettingsAreWritten := by
  refine ⟨⟨fun s o ho => ⟨fun (hbad : BadRule o) => ?_, fun i x c hgood hi hc hx => ?_⟩,
    fun s o ho => ⟨exec_clearRule_of_gt ho, fun i hi => exec_clearRule_of_index ho hi⟩⟩,
    fun s o ho => ?_, fun s o ho => exec_setQuiet_of_head ho, countFlows_eq⟩
  · exact exec_setRule_of_none ho (ruleOf_of_bad hbad)
  · exact exec_setRule_of_some ho (ruleOf_of_good hgood hi hc (selectorOf_of_kind hx))
  · rw [exec_setFlowTimes_of_head ho, limitsOf_eq]
    simp [clamp]

end Sys2Proof.Machine.FlowClassification
end

section
/-!
PROOFS. What the freeing of a record leaves (R94), and DEPART_STATION (R93): O33.
-/

namespace Sys2Proof.Machine.FlowClassification

open Sys2Proof Sys2Proof.Machine

/-! ## The purge of a port (R71, R78) -/

/-- The copies that a purge keeps and those it removes are all there were. -/
theorem purge_queued (x : Port) (d : Copy → Bool) : (x.purge d).1.queued + (x.purge d).2 = x.queued := by
  have hle : ∀ l : List (List Copy), ((l.map fun q => q.filter fun c => !d c).map List.length).sum ≤
      (l.map List.length).sum := by
    intro l
    induction l with
    | nil => simp
    | cons q l ih =>
      have := List.length_filter_le (fun c => !d c) q
      simp only [List.map_cons, List.sum_cons]
      omega
  have := hle x.queues.toList
  simp only [Port.purge, Port.queued, Vector.toList_map]
  omega

theorem purge_queue (x : Port) (d : Copy → Bool) (c : TClass) :
    (x.purge d).1.queue c = (x.queue c).filter fun y => !d y := get_map _ _ _

/-- A purge of a port leaves all but its queues, and sets the deficits of the DRR classes left empty to 0. -/
theorem purge_eq (x : Port) (d : Copy → Bool) : (x.purge d).1 = { x with
    queues := (x.purge d).1.queues
    deficits := Vector.ofFn fun k => if (x.purge d).1.queue (drrClass k) = [] then 0 else x.deficits.get k } := rfl

theorem purgePort_port (s : State) (p q : PortId) (d : Copy → Bool) :
    (s.purgePort p d).port q = if q = p then ((s.port p).purge d).1 else s.port q :=
  State.setPort_port s p q _

/-- A purge of some ports, each named once, purges each of them and leaves the others. -/
theorem purgePorts_port (d : Copy → Bool) (l : List PortId) (hl : l.Nodup) (s : State) (q : PortId) :
    (l.foldl (fun t p => t.purgePort p d) s).port q = if q ∈ l then ((s.port q).purge d).1 else s.port q := by
  induction l generalizing s with
  | nil => simp
  | cons p l ih =>
    obtain ⟨hp, hl⟩ := List.nodup_cons.1 hl
    rw [List.foldl_cons, ih hl, purgePort_port]
    by_cases hq : q = p
    · subst hq; simp [hp]
    · simp [hq]

theorem purgeStation_port (s : State) (i : StaIx) (p : PortId) :
    (s.purgeStation i).port p = ((s.port p).purge fun c => c.station == some i).1 := by
  rw [State.purgeStation, purgePorts_port _ _ (by decide), if_pos (by cases p <;> decide)]

/-- The copies in the class queues of all ports. -/
def queuedAll (s : State) : Nat := (PortId.all.map fun p => (s.port p).queued).sum

/-- The buffers of purged copies return to the pool. -/
theorem purgePort_buffers (s : State) (p : PortId) (d : Copy → Bool) :
    (s.purgePort p d).frp.free + queuedAll (s.purgePort p d) = s.frp.free + queuedAll s := by
  have h := purge_queued (s.port p) d
  have hfree : (s.purgePort p d).frp.free = s.frp.free + ((s.port p).purge d).2 := rfl
  simp only [queuedAll, purgePort_port, hfree, PortId.all, List.map_cons, List.map_nil, List.sum_cons, List.sum_nil]
  cases p <;> simp only [reduceCtorEq, if_true, if_false] <;> omega

theorem purgeStation_buffers (s : State) (i : StaIx) :
    (s.purgeStation i).frp.free + queuedAll (s.purgeStation i) = s.frp.free + queuedAll s := by
  unfold State.purgeStation
  generalize PortId.all = l
  induction l generalizing s with
  | nil => rfl
  | cons p l ih => rw [List.foldl_cons, ih, purgePort_buffers]

/-! ## The freeing of a record (R94) -/

/-- The membership notice of a record that was one of its profile's stations (R84). -/
def leaveNotice (r : Station) : List Trigger :=
  if r.state.serving then r.profile.toList.map fun p => ⟨p, .membership, none, none⟩ else []

theorem leaveProfile_eq (s : State) (r : Station) : s.leaveProfile r =
    { s with pfe := { s.pfe with triggers := s.pfe.triggers ++ leaveNotice r } } := by
  unfold State.leaveProfile leaveNotice
  split
  · cases r.profile with
    | none => simp [State.membership]
    | some p => rfl
  · simp

/-- A freed record changes no part of the state but the queues, the pool, the flow records, the records and the waiting
triggers. -/
theorem freeStation_eq (s : State) (i : StaIx) :
    s.freeStation i = { s with
      frp := { (s.purgeStation i).frp with free := (s.purgeStation i).frp.free + ((s.sta i).held.getD []).length }
      flc := (s.dropFlows fun f => f.station == some i).flc
      stt := { s.stt with recs := put s.stt.recs i Station.free }
      pfe := { s.pfe with triggers := s.pfe.triggers ++ leaveNotice (s.sta i) } } := by
  obtain ⟨v, n, h⟩ := s.purgeStation_spec i
  simp only [State.freeStation, leaveProfile_eq, h]
  rfl

theorem freeStation_port (s : State) (i : StaIx) (p : PortId) :
    (s.freeStation i).port p = ((s.port p).purge fun c => c.station == some i).1 := by
  rw [← purgeStation_port, freeStation_eq]
  rfl

theorem freeStation_queue (s : State) (i : StaIx) (p : PortId) (c : TClass) :
    ((s.freeStation i).port p).queue c = ((s.port p).queue c).filter fun x => !(x.station == some i) := by
  rw [freeStation_port, purge_queue]

/-- The buffers of the purged copies and of the held frames return to the pool. -/
theorem freeStation_buffers (s : State) (i : StaIx) : (s.freeStation i).frp.free + queuedAll (s.freeStation i) =
    s.frp.free + queuedAll s + ((s.sta i).held.getD []).length := by
  have h := purgeStation_buffers s i
  have hq : queuedAll (s.freeStation i) = queuedAll (s.purgeStation i) := by
    simp only [queuedAll, freeStation_port, purgeStation_port]
  have hf : (s.freeStation i).frp.free = (s.purgeStation i).frp.free + ((s.sta i).held.getD []).length := by
    rw [freeStation_eq]
  omega

theorem freeStation_flow (s : State) (i : StaIx) (k : Fin 256) (w : Fin 4) :
    ((s.freeStation i).flc.sets.get k).get w =
      ((s.flc.sets.get k).get w).filter fun f => !(f.station == some i) := by
  rw [freeStation_eq]
  simp [State.dropFlows]

theorem freeStation_sta (s : State) (i j : StaIx) :
    (s.freeStation i).sta j = if j = i then Station.free else s.sta j := by
  rw [freeStation_eq]
  exact get_put _ _ _ _

/-- The states in which a record is one of its profile's stations (R83). -/
theorem serving_iff (g : StaState) : g.serving = true ↔
    g = .active ∨ g = .watched ∨ g = .offering ∨ g = .moving ∨ g = .withdrawing := by
  cases g <;> simp [StaState.serving]

/-! ## DEPART_STATION (R93) -/

section Depart
variable {s : State} {o : Order} (ho : s.freshHead .stt 0x31 = some o)
include ho

theorem exec_departStation_of_none (h : s.findMac (macAt o.params 0) = none) :
    exec .departStation s = .next (s.refuse o .notFound) := by
  change execDepartStation s = _
  simp only [execDepartStation, workOrder_of_some _ ho, h]

/-- Each state of the record that holds the MAC has its own outcome. -/
theorem exec_departStation_of_some {i : StaIx} (h : s.findMac (macAt o.params 0) = some i) :
    ((s.sta i).state = .active ∨ (s.sta i).state = .watched →
      exec .departStation s = .next ((s.freeStation i).accept o [])) ∧
    ((s.sta i).state = .offering ∨ (s.sta i).state = .moving ∨ (s.sta i).state = .withdrawing →
      exec .departStation s = .next ((s.setSta i { s.sta i with departed := true }).accept o [])) ∧
    ((s.sta i).state = .left → exec .departStation s = .next (s.accept o [])) ∧
    ((s.sta i).state = .reserved → exec .departStation s = .next (s.refuse o .refusedState)) := by
  change (_ → execDepartStation s = _) ∧ (_ → execDepartStation s = _) ∧ (_ → execDepartStation s = _) ∧
    (_ → execDepartStation s = _)
  simp only [execDepartStation, workOrder_of_some _ ho, h]
  refine ⟨?_, ?_, fun hg => ?_, fun hg => ?_⟩
  · rintro (hg | hg) <;> rw [hg]
  · rintro (hg | hg | hg) <;> rw [hg]
  · rw [hg]
  · rw [hg]

end Depart

/-- Settles O33: what a freed record leaves is said field by field by the lemmas on `State.freeStation`. -/
theorem departureFreesTheRecordAndLeavesNothing : Obligations.DepartureFreesTheRecordAndLeavesNothing := by
  refine ⟨fun s o ho => ⟨exec_departStation_of_none ho, fun i hi => exec_departStation_of_some ho hi⟩, fun s i => ?_⟩
  refine ⟨?_, fun j hj => ?_, fun p c x hx => ?_, freeStation_queue s i, fun k w f hf => ?_, freeStation_flow s i,
    fun p => ?_, freeStation_buffers s i, ⟨fun p hp hm => ?_, fun hn => ?_⟩, ?_, ?_, fun p => ?_, ?_⟩
  · rw [freeStation_sta, if_pos rfl]
  · rw [freeStation_sta, if_neg hj]
  · rw [freeStation_queue] at hx
    simpa using (List.mem_filter.1 hx).2
  · rw [freeStation_flow] at hf
    simpa using (Option.filter_eq_some_iff.1 hf).2
  · rw [freeStation_port]
    exact purge_eq _ _
  · simp only [freeStation_eq, leaveNotice, (serving_iff _).2 hm, hp, if_true]
    rfl
  · have hnone : leaveNotice (s.sta i) = [] := by
      rcases hn with hn | hn
      · simp [leaveNotice, hn]
      · exact if_neg ((not_congr (serving_iff _)).2 hn)
    simp only [freeStation_eq, hnone, List.append_nil]
  · rw [freeStation_eq]; rfl
  · rw [freeStation_eq]
  · rw [freeStation_port]; exact ⟨rfl, rfl, rfl, rfl⟩
  · have haddr : (s.purgeStation i).frp.addresses = s.frp.addresses := by
      obtain ⟨v, n, h⟩ := s.purgeStation_spec i
      rw [h]
    rw [freeStation_eq]
    exact ⟨rfl, rfl, rfl, rfl, rfl, rfl, rfl, haddr⟩

end Sys2Proof.Machine.FlowClassification
end

section
/-!
PROOFS. Candidate tables, the scoring of peers and the end of a query (R138, R140): O45.
-/

namespace Sys2Proof.Machine.FlowClassification

open Sys2Proof Sys2Proof.Machine

/-! ## Messages -/

/-- The message delivered first is taken and worked when it is of the kind asked. -/
theorem workMessage_of_cons {kind : Nat} {s : State} {m : Msg} {rest : List Msg} (f : Msg → State → State)
    (h : s.hoc.messages = m :: rest) (hk : m.kind = kind) :
    workMessage kind f s = .next (f m { s with hoc := { s.hoc with messages := rest } }) := by
  simp only [workMessage, h, hk, if_true]

/-! ## The game condition of a station (R65) and the load (R85) -/

theorem gaming_iff (s : State) (r : Station) :
    s.gaming r = true ↔ ∃ t, r.lastGame = some t ∧ (s.sck.ms - t).toNat < 2000 := by
  change s.gaming r = true ↔ ∃ t, r.lastGame = some t ∧ elapsed s.now t < 2000
  unfold State.gaming
  split
  · next h => simp [h]
  · next t h =>
    simp only [h, Option.some.injEq, exists_eq_left', reached, Bool.and_eq_true, decide_eq_true_eq]
    omega

theorem load_eq (s : State) :
    s.load = (s.stt.recs.toList.filter fun r => r.state != .free && r.state != .left).length := by
  have h : ∀ g : StaState, (g.serving || g == .reserved) = (g != .free && g != .left) := by
    intro g; cases g <;> rfl
  simp only [State.load, h]

/-! ## The scoring (R140) -/

/-- A candidate qualifies with a score: it was heard, holds no install, is PRESENT and reaches the bar. -/
theorem qualified_eq_some_iff (s : State) (bar : Int) (c : Candidate) (x : Int) :
    s.qualified bar c = some x ↔ ∃ h, c.heard = some h ∧ c.hold = false ∧ s.peerPresent c.node = true ∧
      x = h - (s.hoc.roaming.loadWeight : Int) * c.load ∧ bar ≤ x := by
  unfold State.qualified
  split
  · next h => simp [h]
  · next h e =>
    simp only [e, Option.some.injEq, exists_eq_left', Option.ite_none_right_eq_some, Bool.and_eq_true,
      Bool.not_eq_true', decide_eq_true_eq]
    constructor
    · rintro ⟨⟨⟨hh, hp⟩, hb⟩, rfl⟩; exact ⟨hh, hp, rfl, hb⟩
    · rintro ⟨hh, hp, rfl, hb⟩; exact ⟨⟨⟨hh, hp⟩, hb⟩, rfl⟩

/-- The best of a table so far: none of it qualifies, or the one named does with the highest score, the earliest of
equals. -/
def IsBest (s : State) (bar : Int) (l : List Candidate) : Option (Int × Node) → Prop
  | none => ∀ c ∈ l, s.qualified bar c = none
  | some (x, n) => ∃ before c after, l = before ++ c :: after ∧ c.node = n ∧ s.qualified bar c = some x ∧
      (∀ d ∈ before, ∀ y, s.qualified bar d = some y → y < x) ∧
      ∀ d ∈ after, ∀ y, s.qualified bar d = some y → y ≤ x

/-- No score of a table is above the best. -/
theorem IsBest.le {s : State} {bar : Int} {l : List Candidate} {x : Int} {n : Node} (h : IsBest s bar l (some (x, n)))
    {d : Candidate} (hd : d ∈ l) {y : Int} (hy : s.qualified bar d = some y) : y ≤ x := by
  obtain ⟨before, c, after, rfl, -, hc, hb, ha⟩ := h
  rcases List.mem_append.1 hd with hd | hd
  · exact Int.le_of_lt (hb d hd y hy)
  · rcases List.mem_cons.1 hd with rfl | hd
    · rw [hc] at hy; cases hy; exact Int.le_refl _
    · exact ha d hd y hy

/-- A candidate that scores no higher leaves the best. -/
theorem IsBest.snoc_of_le {s : State} {bar : Int} {l : List Candidate} {x : Int} {n : Node}
    (h : IsBest s bar l (some (x, n))) {c : Candidate} (hc : ∀ y, s.qualified bar c = some y → y ≤ x) :
    IsBest s bar (l ++ [c]) (some (x, n)) := by
  obtain ⟨before, e, after, rfl, hn, he, hb, ha⟩ := h
  refine ⟨before, e, after ++ [c], by simp, hn, he, hb, fun d hd y hy => ?_⟩
  rcases List.mem_append.1 hd with hd | hd
  · exact ha d hd y hy
  · exact hc y (by rw [← List.mem_singleton.1 hd]; exact hy)

/-- A candidate that scores higher than all before it is the best. -/
theorem IsBest.snoc_of_lt {s : State} {bar : Int} {l : List Candidate} {c : Candidate} {x : Int}
    (hc : s.qualified bar c = some x) (h : ∀ d ∈ l, ∀ y, s.qualified bar d = some y → y < x) :
    IsBest s bar (l ++ [c]) (some (x, c.node)) := ⟨l, c, [], rfl, rfl, hc, h, by simp⟩

/-- One candidate more keeps the best, or takes its place with a higher score. -/
theorem IsBest.snoc {s : State} {bar : Int} {l : List Candidate} {b : Option (Int × Node)} (h : IsBest s bar l b)
    (c : Candidate) : IsBest s bar (l ++ [c]) (s.better bar b c) := by
  unfold State.better
  rcases hq : s.qualified bar c with _ | x <;> rcases b with _ | ⟨y, n⟩
  · intro d hd
    rcases List.mem_append.1 hd with hd | hd
    · exact h d hd
    · rw [List.mem_singleton.1 hd, hq]
  · exact h.snoc_of_le fun z hz => by rw [hq] at hz; cases hz
  · exact IsBest.snoc_of_lt hq fun d hd z hz => by rw [h d hd] at hz; cases hz
  · dsimp only
    split
    · next hlt => exact IsBest.snoc_of_lt hq fun d hd z hz => Int.lt_of_le_of_lt (h.le hd hz) hlt
    · next hle => exact h.snoc_of_le fun z hz => by rw [hq] at hz; cases hz; exact Int.not_lt.1 hle

/-- The fold over the rest of a table goes on from the best of what it has passed. -/
theorem IsBest.foldl {s : State} {bar : Int} (l : List Candidate) {passed : List Candidate} {b : Option (Int × Node)}
    (h : IsBest s bar passed b) : IsBest s bar (passed ++ l) (l.foldl (s.better bar) b) := by
  induction l generalizing passed b with
  | nil => rw [List.append_nil]; exact h
  | cons c l ih =>
    rw [List.foldl_cons, List.append_cons]
    exact ih (h.snoc c)

theorem isBest_foldl (s : State) (bar : Int) (l : List Candidate) : IsBest s bar l (l.foldl (s.better bar) none) :=
  IsBest.foldl l (passed := []) fun _ hd => nomatch hd

/-- The bar of a record: its own score and the margin. -/
def barOf (s : State) (r : Station) : Int :=
  r.signal.getD 0 - (s.hoc.roaming.loadWeight : Int) * (s.load : Int) + s.margin r (r.signal.getD 0)

theorem winner_eq_none_iff (s : State) (r : Station) (l : List Candidate) :
    s.winner r l = none ↔ ∀ c ∈ l, s.qualified (barOf s r) c = none := by
  have h := isBest_foldl s (barOf s r) l
  unfold State.winner
  rw [Option.map_eq_none_iff]
  cases e : l.foldl (s.better (barOf s r)) none with
  | none => rw [e] at h; exact ⟨fun _ => h, fun _ => e⟩
  | some b =>
    rw [e] at h
    obtain ⟨before, c, after, rfl, -, hc, -⟩ := h
    refine ⟨fun hn => ?_, fun hn => ?_⟩
    · exact absurd (e.symm.trans hn) (by simp)
    · rw [hn c (by simp)] at hc; cases hc

theorem winner_eq_some {s : State} {r : Station} {l : List Candidate} {n : Node} (hw : s.winner r l = some n) :
    ∃ x, IsBest s (barOf s r) l (some (x, n)) := by
  obtain ⟨⟨x, _⟩, hb, rfl⟩ := Option.map_eq_some_iff.1 hw
  exact ⟨x, hb ▸ isBest_foldl s (barOf s r) l⟩

/-! ## The end of a query (R137, R138) -/

theorem closeQuery_of_winner {s : State} {i : StaIx} {q : Query} {n : Node} (hq : (s.sta i).query = some q)
    (hw : s.winner (s.sta i) q.entries = some n) : s.closeQuery i = s.beginOffer i n := by
  simp only [State.closeQuery, hq, hw]

theorem closeQuery_of_none {s : State} {i : StaIx} {q : Query} (hq : (s.sta i).query = some q)
    (hw : s.winner (s.sta i) q.entries = none) :
    s.closeQuery i = s.setSta i { ((s.sta i).backOff s.now) with state := .active, query := none } := by
  simp only [State.closeQuery, hq, hw]

theorem exec_queryDeadline {s : State} {i : StaIx} {q : Query} (hw : (s.sta i).state = .watched)
    (hq : (s.sta i).query = some q) :
    exec (.queryDeadline i) s = .next (if reached s.sck.ms q.deadline then s.closeQuery i else s) := by
  change execQueryDeadline i s = _
  simp only [execQueryDeadline, hw, hq]
  rfl

/-! ## SIGNAL_REPORT (R138) -/

/-- The table with the report of `m` in the entry of its sender. -/
def answered (m : Msg) (l : List Candidate) : List Candidate :=
  l.map fun c => if c.node = m.sender then c.answer m.body else c

/-- What a report leaves in an entry: NOT_HEARD for a BUSY answer too. -/
theorem answer_eq (c : Candidate) (b : List Byte) : c.answer b = { c with
    answered := true, load := (byteAt b 8).toNat, hold := (byteAt b 9).getLsbD 0
    heard := if (byteAt b 9).getLsbD 1 = true ∨ beAt b 6 2 = 0x8000 then none
      else some (if beAt b 6 2 < 32768 then (beAt b 6 2 : Int) else (beAt b 6 2 : Int) - 65536) } := by
  have hheard : (if (byteAt b 9).getLsbD 1 then none else signalOf (beAt b 6 2)) =
      if (byteAt b 9).getLsbD 1 = true ∨ beAt b 6 2 = 0x8000 then none else some (signed16 (beAt b 6 2)) := by
    by_cases hbusy : (byteAt b 9).getLsbD 1 = true
    · rw [if_pos hbusy, if_pos (.inl hbusy)]
    · rw [if_neg hbusy, signalOf]
      simp only [hbusy, false_or, Bool.false_eq_true]
  rw [Candidate.answer, hheard]
  rfl

section Report
variable {s : State} {m : Msg} {rest : List Msg} (hm : s.hoc.messages = m :: rest) (hk : m.kind = kSignalReport)
include hm hk

/-- A report of a MAC that no record with a candidate table holds is only taken. -/
theorem exec_signalReport_of_no_table
    (h : ∀ i, s.findMac (macAt m.body 0) = some i → (s.sta i).state ≠ .watched ∨ (s.sta i).query = none) :
    exec .signalReport s = .next { s with hoc := { s.hoc with messages := rest } } := by
  change execSignalReport s = _
  rw [execSignalReport, workMessage_of_cons _ hm hk]
  dsimp only
  congr 1
  split
  · next i hi =>
    split
    · next q hg hq =>
      rcases h i hi with h | h
      · exact absurd hg h
      · cases h.symm.trans hq
    · rfl
  · rfl

theorem exec_signalReport_of_table {i : StaIx} {q : Query} (hi : s.findMac (macAt m.body 0) = some i)
    (hw : (s.sta i).state = .watched) (hq : (s.sta i).query = some q) :
    exec .signalReport s = .next (State.reportTaken { s with hoc := { s.hoc with messages := rest } } i q m) := by
  change execSignalReport s = _
  rw [execSignalReport, workMessage_of_cons _ hm hk]
  have hi' : State.findMac { s with hoc := { s.hoc with messages := rest } } (macAt m.body 0) = some i := hi
  have hw' : (State.sta { s with hoc := { s.hoc with messages := rest } } i).state = .watched := hw
  have hq' : (State.sta { s with hoc := { s.hoc with messages := rest } } i).query = some q := hq
  simp only [hi', hw', hq']

end Report

/-- A report of a node that has answered, or was not asked, changes nothing. -/
theorem reportTaken_of_not_waiting {s : State} {i : StaIx} {q : Query} {m : Msg}
    (h : ¬∃ c ∈ q.entries, c.node = m.sender ∧ c.answered = false) : s.reportTaken i q m = s :=
  if_neg (by simpa [List.any_eq_true] using h)

/-- A report that a table waits for fills its entry, and the last one closes the table. -/
theorem reportTaken_of_waiting {s : State} {i : StaIx} {q : Query} {m : Msg}
    (h : ∃ c ∈ q.entries, c.node = m.sender ∧ c.answered = false) :
    let u := s.setSta i { s.sta i with query := some { q with entries := answered m q.entries } }
    ((∀ c ∈ answered m q.entries, c.answered = true) → s.reportTaken i q m = u.closeQuery i) ∧
    ((∃ c ∈ answered m q.entries, c.answered = false) → s.reportTaken i q m = u) := by
  have hany : (q.entries.any fun c => c.node == m.sender && !c.answered) = true := by
    simpa [List.any_eq_true] using h
  refine ⟨fun hall => ?_, fun hsome => ?_⟩
  · exact (if_pos hany).trans (if_pos (List.all_eq_true.2 hall))
  · refine (if_pos hany).trans (if_neg fun hall => ?_)
    obtain ⟨c, hc, hn⟩ := hsome
    rw [List.all_eq_true.1 hall c hc] at hn
    cases hn

/-- Settles O45: the fold over a candidate table keeps the best of the entries it has passed (`IsBest`). -/
theorem candidatesAreCollectedAndScored : Obligations.CandidatesAreCollectedAndScored := by
  refine ⟨fun s m rest hm hk => ⟨fun i q hi hw hq => ?_, fun i hi hn => ?_, fun hn => ?_⟩, gaming_iff,
    fun s i q hw hq => ?_, fun s i q hq => ⟨fun n => closeQuery_of_winner hq, closeQuery_of_none hq⟩,
    fun s r l => ?_, load_eq⟩
  · simp only [exec_signalReport_of_table hm hk hi hw hq, ← answer_eq]
    refine ⟨fun hn => ?_, fun hw hall => ?_, fun hw hs => ?_⟩
    · rw [reportTaken_of_not_waiting hn]
    · exact congrArg _ ((reportTaken_of_waiting hw).1 hall)
    · exact congrArg _ ((reportTaken_of_waiting hw).2 hs)
  · refine exec_signalReport_of_no_table hm hk fun j hj => ?_
    cases hi.symm.trans hj
    exact hn
  · exact exec_signalReport_of_no_table hm hk fun j hj => absurd (hn.symm.trans hj) (by simp)
  · rw [exec_queryDeadline hw hq]
    exact ⟨fun h => by rw [h, if_pos rfl], fun h => by rw [h]; rfl⟩
  · intro avg weight margin scores
    have hmargin : margin = s.margin r avg := by simp [margin, State.margin, apply_ite (Nat.cast : Nat → Int)]
    have hbar : avg - weight * s.load + margin = barOf s r := congrArg _ hmargin
    have hscores : ∀ c x, s.qualified (barOf s r) c = some x ↔ scores c x := fun c x => by
      simp only [qualified_eq_some_iff, scores, hbar, weight]
    refine ⟨(winner_eq_none_iff s r l).trans (forall₂_congr fun c _ =>
      Option.eq_none_iff_forall_ne_some.trans (forall_congr' fun x => not_congr (hscores c x))), fun n hw => ?_⟩
    obtain ⟨x, before, c, after, hl, hn, hc, hb, ha⟩ := winner_eq_some hw
    exact ⟨before, c, after, x, hl, hn, (hscores c x).1 hc, fun d hd y hy => hb d hd y ((hscores d y).2 hy),
      fun d hd y hy => ha d hd y ((hscores d y).2 hy)⟩

end Sys2Proof.Machine.FlowClassification
end

section
/-!
PROOFS. The offer at its origin and at its target, and the reservation (R63, R132, R133, R141, R142): O46.
-/

namespace Sys2Proof.Machine.FlowClassification

open Sys2Proof Sys2Proof.Machine

/-! ## The offer at the target (R142) -/

section Target
variable {s : State} {m : Msg} {rest : List Msg} (hm : s.hoc.messages = m :: rest) (hk : m.kind = kOffer)
include hm hk

theorem exec_offer_of_decline {reason : Byte} (h : s.offerCase m.id m.mac = .decline reason) :
    exec .offer s = .next (State.sendTo { s with hoc := { s.hoc with messages := rest } } m.sender kDecline
      (idMacBody m.id m.mac ++ [reason])) := by
  have h' : State.offerCase { s with hoc := { s.hoc with messages := rest } } m.id m.mac = .decline reason := h
  change execOffer s = _
  simp only [execOffer, workMessage_of_cons _ hm hk, h']

theorem exec_offer_of_accept (h : s.offerCase m.id m.mac = .accept) :
    exec .offer s = .next (State.sendTo { s with hoc := { s.hoc with messages := rest } } m.sender kAccept
      (idMacBody m.id m.mac)) := by
  have h' : State.offerCase { s with hoc := { s.hoc with messages := rest } } m.id m.mac = .accept := h
  change execOffer s = _
  simp only [execOffer, workMessage_of_cons _ hm hk, h']

theorem exec_offer_of_reserve {i : StaIx} (h : s.offerCase m.id m.mac = .reserve i) :
    exec .offer s = .next ((State.reserve { s with hoc := { s.hoc with messages := rest } } i m.sender m.body).sendTo
      m.sender kAccept (idMacBody m.id m.mac)) := by
  have h' : State.offerCase { s with hoc := { s.hoc with messages := rest } } m.id m.mac = .reserve i := h
  change execOffer s = _
  simp only [execOffer, workMessage_of_cons _ hm hk, h']

end Target

theorem holding_iff (s : State) : s.holding = true ↔ s.ups.state = .hold := beq_iff_eq

theorem offerCase_of_hold {s : State} (id : HandoffId) (mac : Mac) (h : s.ups.state = .hold) :
    s.offerCase id mac = .decline reasonUpdating := if_pos ((holding_iff s).2 h)

section Case
variable {s : State} {id : HandoffId} {mac : Mac} (hn : s.ups.state ≠ .hold)
include hn

theorem offerCase_of_repeated (h : (s.findHandoff id (· == .reserved) none).isSome = true) :
    s.offerCase id mac = .accept := by
  obtain ⟨x, hx⟩ := Option.isSome_iff_exists.1 h
  simp only [State.offerCase, if_neg ((not_congr (holding_iff s)).2 hn), hx]

theorem offerCase_of_known {i : StaIx} (h : s.findHandoff id (· == .reserved) none = none)
    (hi : s.findMac mac = some i) : s.offerCase id mac =
      .decline (if (s.sta i).state = .reserved then reasonBusy else reasonDuplicate) := by
  simp only [State.offerCase, if_neg ((not_congr (holding_iff s)).2 hn), h, hi]

theorem offerCase_of_full (h : s.findHandoff id (· == .reserved) none = none) (hi : s.findMac mac = none)
    (hf : s.freeIndex = none) : s.offerCase id mac = .decline reasonNoRoom := by
  simp only [State.offerCase, if_neg ((not_congr (holding_iff s)).2 hn), h, hi, hf]

theorem offerCase_of_free {i : StaIx} (h : s.findHandoff id (· == .reserved) none = none) (hi : s.findMac mac = none)
    (hf : s.freeIndex = some i) : s.offerCase id mac = .reserve i := by
  simp only [State.offerCase, if_neg ((not_congr (holding_iff s)).2 hn), h, hi, hf]

end Case

/-! ## The flows of an offer (R141) -/

/-- What stands in order of age. -/
def ByAge (l : List (Nat × Flow)) : Prop := l.Pairwise fun x y => x.1 ≤ y.1

theorem mem_insertByAge {x z : Nat × Flow} {l : List (Nat × Flow)} : z ∈ insertByAge x l ↔ z = x ∨ z ∈ l := by
  induction l with
  | nil => simp [insertByAge]
  | cons y l ih =>
    unfold insertByAge
    split
    · simp
    · simp only [List.mem_cons, ih, or_left_comm]

theorem byAge_insertByAge {x : Nat × Flow} {l : List (Nat × Flow)} (h : ByAge l) : ByAge (insertByAge x l) := by
  induction l with
  | nil => exact List.pairwise_singleton _ _
  | cons y l ih =>
    obtain ⟨hy, hl⟩ := List.pairwise_cons.1 h
    unfold insertByAge
    split
    · next hlt =>
      refine List.pairwise_cons.2 ⟨fun z hz => ?_, h⟩
      rcases List.mem_cons.1 hz with rfl | hz
      · exact Nat.le_of_lt hlt
      · exact Nat.le_trans (Nat.le_of_lt hlt) (hy z hz)
    · next hge =>
      refine List.pairwise_cons.2 ⟨fun z hz => ?_, ih hl⟩
      rcases mem_insertByAge.1 hz with rfl | hz
      · exact Nat.not_lt.1 hge
      · exact hy z hz

/-- An insertion puts an entry after all of its age, and moves none of another age. -/
theorem filter_insertByAge {x : Nat × Flow} {l : List (Nat × Flow)} (h : ByAge l) (n : Nat) :
    (insertByAge x l).filter (fun y => y.1 == n) = l.filter (fun y => y.1 == n) ++ [x].filter fun y => y.1 == n := by
  induction l with
  | nil => rfl
  | cons y l ih =>
    obtain ⟨hy, hl⟩ := List.pairwise_cons.1 h
    unfold insertByAge
    split
    · next hlt =>
      by_cases hx : x.1 = n
      · have hnone : (y :: l).filter (fun z => z.1 == n) = [] := by
          refine List.filter_eq_nil_iff.2 fun z hz => ?_
          rcases List.mem_cons.1 hz with rfl | hz
          · simp only [beq_iff_eq]; omega
          · have := hy z hz; simp only [beq_iff_eq]; omega
        rw [List.filter_cons, hnone]
        simp [hx]
      · simp [List.filter_cons, hx]
    · rw [List.filter_cons, List.filter_cons, ih hl]
      split <;> simp

/-- A list in order of age whose entries are those of another list, those of one age in the same order. -/
def SortOf (sorted l : List (Nat × Flow)) : Prop :=
  ByAge sorted ∧ (∀ z, z ∈ sorted ↔ z ∈ l) ∧ ∀ n, sorted.filter (fun y => y.1 == n) = l.filter fun y => y.1 == n

theorem SortOf.insert {sorted l : List (Nat × Flow)} (h : SortOf sorted l) (x : Nat × Flow) :
    SortOf (insertByAge x sorted) (l ++ [x]) := by
  obtain ⟨hs, hmem, hf⟩ := h
  refine ⟨byAge_insertByAge hs, fun z => ?_, fun n => ?_⟩
  · rw [mem_insertByAge, hmem, List.mem_append, List.mem_singleton, or_comm]
  · rw [filter_insertByAge hs, hf, List.filter_append]

theorem SortOf.foldl (l : List (Nat × Flow)) {sorted passed : List (Nat × Flow)} (h : SortOf sorted passed) :
    SortOf (l.foldl (fun acc x => insertByAge x acc) sorted) (passed ++ l) := by
  induction l generalizing sorted passed with
  | nil => rw [List.append_nil]; exact h
  | cons x l ih =>
    rw [List.foldl_cons, List.append_cons]
    exact ih (h.insert x)

theorem sortByAge_spec (l : List (Nat × Flow)) : SortOf (sortByAge l) l :=
  SortOf.foldl l (passed := []) ⟨List.Pairwise.nil, fun _ => Iff.rfl, fun _ => rfl⟩

/-- A record's flows of class GAME or LIVE, in table order. -/
def ownFlows (s : State) (i : StaIx) : List Flow :=
  ((s.flc.sets.toList.map fun (set : Vector (Option Flow) 4) => set.toList.filterMap fun w => w).flatten).filter
    fun f => f.station == some i && (f.cls == .game || f.cls == .live)

/-- Those flows, most recently seen first. -/
def flowsByAge (s : State) (i : StaIx) : List Flow :=
  (sortByAge ((ownFlows s i).map fun f => (age s.now f.lastSeen, f))).map Prod.snd

theorem offeredFlows_eq (s : State) (i : StaIx) : s.offeredFlows i = (flowsByAge s i).take 16 := rfl

/-- Each pair that the sort holds is a flow of the record with its age. -/
theorem age_of_mem_sort {s : State} {i : StaIx} {z : Nat × Flow}
    (h : z ∈ sortByAge ((ownFlows s i).map fun f => (age s.now f.lastSeen, f))) : z.1 = age s.now z.2.lastSeen := by
  obtain ⟨f, -, rfl⟩ := List.mem_map.1 (((sortByAge_spec _).2.1 z).1 h)
  rfl

theorem flowsByAge_pairwise (s : State) (i : StaIx) :
    (flowsByAge s i).Pairwise fun f g => age s.now f.lastSeen ≤ age s.now g.lastSeen := by
  refine List.pairwise_map.2 ((sortByAge_spec _).1.imp_of_mem fun hx hy hle => ?_)
  rw [← age_of_mem_sort hx, ← age_of_mem_sort hy]
  exact hle

/-- Flows of one age stand in table order. -/
theorem flowsByAge_filter (s : State) (i : StaIx) (n : Nat) :
    (flowsByAge s i).filter (fun f => age s.now f.lastSeen == n) =
      (ownFlows s i).filter fun f => age s.now f.lastSeen == n := by
  have hage : (sortByAge ((ownFlows s i).map fun f => (age s.now f.lastSeen, f))).filter
      (fun z => age s.now z.2.lastSeen == n) =
      (sortByAge ((ownFlows s i).map fun f => (age s.now f.lastSeen, f))).filter fun z => z.1 == n :=
    List.filter_congr fun z hz => by rw [age_of_mem_sort hz]
  rw [flowsByAge, List.filter_map]
  refine (congrArg (List.map Prod.snd) (hage.trans ((sortByAge_spec _).2.2 n))).trans ?_
  rw [List.filter_map, List.map_map]
  exact List.map_id _

/-- The arms an offer carries are the unexpired ones. -/
theorem liveArms_toList (now : Ms) (v : Vector (Option Arm) 4) : ((liveArms now v).toList.filterMap fun e => e) =
    v.toList.filterMap fun e => e.filter fun a => !reached now a.expiry := by
  rw [liveArms, Vector.toList_map, List.filterMap_map]
  rfl

theorem beginOffer_eq (s : State) (i : StaIx) (peer : Node) :
    let id : HandoffId := ⟨BitVec.ofNat 8 s.mlc.node.val, s.mlc.handoffCount + 1⟩
    let body := s.offerBody i id
    s.beginOffer i peer = State.sendTo { s with
      mlc := { s.mlc with handoffCount := s.mlc.handoffCount + 1 }
      stt := { s.stt with recs := put s.stt.recs i { s.sta i with
        state := .offering, query := none
        handoff := some ⟨id, peer, 1, s.sck.ms + 100, (s.sta i).used, (s.sta i).day, false, none, body⟩ } } }
      peer kOffer body := rfl

/-! ## The reservation (R63, R142) -/

theorem placeFlow_now (s : State) (f : Flow) : (s.placeFlow f).now = s.now := rfl

/-- Two folds agree whose steps agree where `P` holds, which the steps keep. -/
theorem foldl_eq_of_invariant {α β : Type} {P : α → Prop} {f g : α → β → α} (hfg : ∀ a b, P a → f a b = g a b)
    (hP : ∀ a b, P a → P (g a b)) (l : List β) (a : α) (h : P a) : l.foldl f a = l.foldl g a := by
  induction l generalizing a with
  | nil => rfl
  | cons b l ih => rw [List.foldl_cons, List.foldl_cons, hfg a b h, ih _ (hP a b h)]

/-- Placing flows keeps the time, so each is seen at the time of the reservation. -/
theorem placeFlows_now (g : Ms → Nat → Flow) (l : List Nat) (s : State) :
    l.foldl (fun v j => v.placeFlow (g v.now j)) s = l.foldl (fun v j => v.placeFlow (g s.now j)) s :=
  foldl_eq_of_invariant (P := fun v => v.now = s.now) (fun v j h => by rw [h])
    (fun v j h => (placeFlow_now v _).trans h) l s rfl

/-- A flow of an OFFER body as it is installed at a time. -/
def flowHandedAt (i : StaIx) (b : List Byte) (now : Ms) (j : Nat) : Flow :=
  let at_ := 24 + 5 * (byteAt b 22).toNat + 40 * j
  ⟨flowKeyAt b at_, some i, handedClassOf (byteAt b (at_ + 38)), .handed, byteAt b (at_ + 39) != 0, now, now, 0⟩

theorem reserve_eq (s : State) (i : StaIx) (origin : Node) (b : List Byte) : s.reserve i origin b =
    (((List.range (byteAt b 23).toNat).foldl (fun v j => v.placeFlow (flowHandedAt i b s.now j))
      (s.enter i (s.reservation origin b))).recomputeSpent i).recomputeGate i :=
  congrArg (fun t : State => (t.recomputeSpent i).recomputeGate i)
    (placeFlows_now (flowHandedAt i b) _ (s.enter i (s.reservation origin b)))

theorem handedClassOf_classIx {c : TClass} (h : c ≠ .ctrl) : handedClassOf (BitVec.ofNat 8 (classIx c).val) = c := by
  have hcode : classOfCode (BitVec.ofNat 8 (classIx c).val).toNat = some c := by
    rw [BitVec.toNat_ofNat, Nat.mod_eq_of_lt (Nat.lt_trans (classIx c).isLt (by decide)), classOfCode_classIx]
  unfold handedClassOf
  split
  · next hctrl => exact absurd (Option.some.inj (hcode.symm.trans hctrl)) h
  · next hnone => cases hcode.symm.trans hnone
  · next d _ hd => exact Option.some.inj (hd.symm.trans hcode)

/-- CTRL is no class of a handed flow, whatever its byte. -/
theorem handedClassOf_ne_ctrl (b : Byte) : handedClassOf b ≠ .ctrl := by
  unfold handedClassOf
  split
  · split <;> nofun
  · split <;> nofun
  · next hne _ => exact hne

/-- A key read from 38 bytes of a body has those bytes. -/
theorem flowKeyAt_bytes (b : List Byte) (i : Nat) (h : i + 38 ≤ b.length) :
    (flowKeyAt b i).bytes = (b.drop i).take 38 := by
  have byte : ∀ k, k < b.length → [byteAt b k] = (b.drop k).take 1 := fun k hk => by
    rw [List.drop_eq_getElem_cons hk, List.take_succ_cons, List.take_zero, byteAt,
      List.getD_eq_getElem?_getD, List.getElem?_eq_getElem hk, Option.getD_some]
  have cut : ∀ k n r, (b.drop k).take (n + r) = (b.drop k).take n ++ (b.drop (k + n)).take r := fun k n r => by
    rw [List.take_add, List.drop_drop]
  have addr : ∀ k, (BitVec.ofNat 128 (beAt b k 16)).toNat = beAt b k 16 := toNat_ofNat_beAt 128 16 (by decide) b
  simp only [FlowKey.bytes, flowKeyAt, addr, half_beAt]
  rw [be_beAt b _ 16 (by omega), be_beAt b _ 2 (by omega), be_beAt b _ 16 (by omega), be_beAt b _ 2 (by omega),
    cut i 36 2, cut i 20 16, cut i 18 2, cut i 2 16, cut i 1 1, ← byte i (by omega), ← byte (i + 1) (by omega)]
  rfl

/-- Settles O46: each case of R142 is one outcome of `State.offerCase`, the flows of an offer are the sorted ones of the
record, and a reservation places the handed flows one after the other at one time. -/
theorem offerReservesOrIsDeclined : Obligations.OfferReservesOrIsDeclined := by
  refine ⟨fun s m rest hm hk => ⟨fun hh => ?_, fun hn => ⟨fun hr => ?_, fun i hr hi => ?_, fun hr hi hf => ?_,
    fun i hr hi hf => ?_⟩⟩, fun s i peer => ⟨flowsByAge s i, ?_⟩,
    fun s i origin b => ?_, fun c => handedClassOf_classIx, handedClassOf_ne_ctrl, flowKeyAt_bytes⟩
  · exact exec_offer_of_decline hm hk (offerCase_of_hold _ _ hh)
  · exact exec_offer_of_accept hm hk (offerCase_of_repeated hn hr)
  · exact exec_offer_of_decline hm hk (offerCase_of_known hn hr hi)
  · exact exec_offer_of_decline hm hk (offerCase_of_full hn hr hi hf)
  · exact exec_offer_of_reserve hm hk (offerCase_of_free hn hr hi hf)
  · intro r id own old flows arms body
    have hbody : s.offerBody i id = body := by
      unfold State.offerBody
      simp only [liveArms_toList, offeredFlows_eq]
      cases hp : (s.sta i).profile <;> simp only [body, r, hp] <;> rfl
    refine ⟨flowsByAge_pairwise s i, flowsByAge_filter s i, ?_⟩
    rw [beginOffer_eq, ← hbody]
  · intro arms mac day r t u
    have hr : s.reservation origin b = r := by
      simp only [State.reservation, clamp, Nat.zero_max]
      rfl
    have ht : s.enter i (s.reservation origin b) = t := by rw [hr]; rfl
    rw [reserve_eq, ht]
    rfl

end Sys2Proof.Machine.FlowClassification
end

section
/-!
PROOFS. The Airtime Scheduler of a port (chapter 4): one visit of the deficit round and the round (R77, R78): O30.
-/

namespace Sys2Proof.Machine.AirtimeScheduling

open Sys2Proof Sys2Proof.Machine

/-! ## One visit (R77, R78) -/

/-- The credit a visit compares with the cost of the head: the deficit of the pointer's class, with its quantum once a
visit. -/
def credit (x : Port) : Nat :=
  x.deficits.get x.pointer + if x.quantumAdded then 0 else x.config.quanta.get x.pointer

/-- A port whose pointer leaves its class with deficit `d`. -/
def passOn (x : Port) (d : Nat) : Port :=
  { x with deficits := put x.deficits x.pointer d, pointer := x.pointer + 1, quantumAdded := false }

/-- A port whose pointer's class sends its head, `rest` being left. -/
def sendHead (x : Port) (c : Copy) (rest : List Copy) : Port :=
  { x with
    queues := put x.queues (classIx (drrClass x.pointer)) rest
    deficits := put x.deficits x.pointer (if rest = [] then 0 else credit x - c.cost)
    quantumAdded := true }

theorem put_put (v : Vector α n) (i : Fin n) (a b : α) : put (put v i a) i b = put v i b := by
  refine vector_ext_get fun j => ?_
  simp only [get_put]
  split <;> rfl

/-- The quantum of a visit is added to the deficit of the pointer's class, and no other part of the port changes. -/
theorem credited_eq (x : Port) : x.credited =
    { x with deficits := put x.deficits x.pointer (credit x), quantumAdded := true } := by
  unfold Port.credited credit
  split
  · next h => simp only [Nat.add_zero, put_get_self, ← h]
  · rfl

theorem drrVisit_of_empty {x : Port} (h : x.queue (drrClass x.pointer) = []) : x.drrVisit = (passOn x 0, none) := by
  simp only [Port.drrVisit, h]
  rfl

theorem drrVisit_of_fits {x : Port} {c : Copy} {rest : List Copy} (h : x.queue (drrClass x.pointer) = c :: rest)
    (hc : c.cost ≤ credit x) : x.drrVisit = (sendHead x c rest, some c) := by
  simp only [Port.drrVisit, h, credited_eq, get_put_same, hc, if_true, put_put]
  rfl

theorem drrVisit_of_short {x : Port} {c : Copy} {rest : List Copy} (h : x.queue (drrClass x.pointer) = c :: rest)
    (hc : credit x < c.cost) : x.drrVisit = (passOn x (credit x), none) := by
  simp only [Port.drrVisit, h, credited_eq, get_put_same, Nat.not_le.2 hc, if_false]
  rfl

/-- What one visit can do: the head of the pointer's class goes, or the pointer leaves a class that is empty or whose
head costs more than its credit. -/
theorem drrVisit_cases (x : Port) :
    (∃ c rest, x.queue (drrClass x.pointer) = c :: rest ∧ c.cost ≤ credit x ∧
      x.drrVisit = (sendHead x c rest, some c)) ∨
    (x.queue (drrClass x.pointer) = [] ∧ x.drrVisit = (passOn x 0, none)) ∨
    (∃ c rest, x.queue (drrClass x.pointer) = c :: rest ∧ credit x < c.cost ∧
      x.drrVisit = (passOn x (credit x), none)) := by
  cases h : x.queue (drrClass x.pointer) with
  | nil => exact .inr (.inl ⟨rfl, drrVisit_of_empty h⟩)
  | cons c rest =>
    rcases Nat.lt_or_ge (credit x) c.cost with hc | hc
    · exact .inr (.inr ⟨c, rest, rfl, hc, drrVisit_of_short h hc⟩)
    · exact .inl ⟨c, rest, rfl, hc, drrVisit_of_fits h hc⟩

/-! ## The round (R77) -/

theorem drrRound_of_chosen {x : Port} (n : Nat) (h : x.drrVisit.2 ≠ none) : Port.drrRound (n + 1) x = x.drrVisit := by
  obtain ⟨c, hc⟩ := Option.ne_none_iff_exists'.1 h
  simp only [Port.drrRound, hc]
  rw [← hc]

theorem drrRound_of_none {x : Port} (n : Nat) (h : x.drrVisit.2 = none) :
    Port.drrRound (n + 1) x = Port.drrRound n x.drrVisit.1 := by
  simp only [Port.drrRound, h]

theorem drrRound_of_head {x y : Port} {c : Copy} (n : Nat) (h : x.drrVisit = (y, some c)) :
    Port.drrRound (n + 1) x = (y, some c) := by
  rw [drrRound_of_chosen n (by simp [h]), h]

theorem drrRound_of_pass {x y : Port} (n : Nat) (h : x.drrVisit = (y, none)) :
    Port.drrRound (n + 1) x = Port.drrRound n y := by
  rw [drrRound_of_none n (by simp [h]), h]

/-- What every visit keeps, the round keeps. -/
theorem drrRound_induct {P : Port → Prop} (visit : ∀ x, P x → P x.drrVisit.1) (n : Nat) {x : Port} (h : P x) :
    P (Port.drrRound n x).1 := by
  induction n generalizing x with
  | zero => exact h
  | succ n ih =>
    by_cases hv : x.drrVisit.2 = none
    · rw [drrRound_of_none n hv]
      exact ih (visit x h)
    · rw [drrRound_of_chosen n hv]
      exact visit x h

/-- The copy a round chooses is the head of its class's queue, and no other queue changes. -/
theorem drrRound_takes_head (n : Nat) {x : Port} {c : Copy} (h : (Port.drrRound n x).2 = some c) :
    ∃ k rest, x.queue (drrClass k) = c :: rest ∧
      (Port.drrRound n x).1.queues = put x.queues (classIx (drrClass k)) rest := by
  induction n generalizing x with
  | zero => cases h
  | succ n ih =>
    rcases drrVisit_cases x with ⟨c', rest, hq, -, hv⟩ | ⟨-, hv⟩ | ⟨-, -, -, -, hv⟩
    · rw [drrRound_of_head n hv] at h ⊢
      cases h
      exact ⟨x.pointer, rest, hq, rfl⟩
    · rw [drrRound_of_pass n hv] at h ⊢
      exact ih h
    · rw [drrRound_of_pass n hv] at h ⊢
      exact ih h

/-- How many visits the pointer needs to reach class `k`. -/
def distance (x : Port) (k : Fin 4) : Nat := (k - x.pointer).val

theorem distance_passOn_same (x : Port) (d : Nat) : distance (passOn x d) x.pointer = 3 := by
  simp only [distance, passOn]
  generalize x.pointer = p
  revert p
  decide

theorem distance_passOn_ne (x : Port) (d : Nat) {k : Fin 4} (h : k ≠ x.pointer) :
    distance (passOn x d) k + 1 = distance x k := by
  simp only [distance, passOn]
  revert h
  generalize x.pointer = p
  revert k p
  decide

/-- A class that waits is served in time: each pass of four visits adds at least 1 to its deficit, until the deficit
covers any cost. -/
theorem drrRound_chooses_of_fuel {k : Fin 4} (n : Nat) {x : Port} (hf : x.quantumAdded = false)
    (hq : ∀ k, 1 ≤ x.config.quanta.get k) (hc : ∀ k, ∀ c ∈ x.queue (drrClass k), c.cost ≤ 17384)
    (hk : x.queue (drrClass k) ≠ []) (hn : 4 * (17384 - x.deficits.get k) + distance x k < n) :
    (Port.drrRound n x).2 ≠ none := by
  induction n generalizing x with
  | zero => omega
  | succ n ih =>
    rcases drrVisit_cases x with ⟨c, rest, -, -, hv⟩ | ⟨he, hv⟩ | ⟨c, rest, he, hlt, hv⟩
    · rw [drrRound_of_head n hv]
      nofun
    · have hne : k ≠ x.pointer := fun e => hk (e ▸ he)
      have hd := distance_passOn_ne x 0 hne
      have hg : (passOn x 0).deficits.get k = x.deficits.get k := get_put_ne _ _ hne
      rw [drrRound_of_pass n hv]
      exact ih rfl hq hc hk (by rw [hg]; omega)
    · rw [drrRound_of_pass n hv]
      refine ih rfl hq hc hk ?_
      have hcost : c.cost ≤ 17384 := hc x.pointer c (by simp [he])
      by_cases hp : k = x.pointer
      · subst hp
        have hg : (passOn x (credit x)).deficits.get x.pointer = credit x := get_put_same _ _ _
        have hcredit : x.deficits.get x.pointer + 1 ≤ credit x := by
          simp only [credit, hf]
          exact Nat.add_le_add_left (hq _) _
        rw [hg, distance_passOn_same]
        omega
      · have hd := distance_passOn_ne x (credit x) hp
        have hg : (passOn x (credit x)).deficits.get k = x.deficits.get k := get_put_ne _ _ hp
        rw [hg]
        omega

/-- The round run to its end chooses a copy whenever one of its classes has one. -/
theorem drrRound_chooses {x : Port} (hq : ∀ k, 1 ≤ x.config.quanta.get k)
    (hc : ∀ k, ∀ c ∈ x.queue (drrClass k), c.cost ≤ 17384) {k : Fin 4} (hk : x.queue (drrClass k) ≠ []) :
    (Port.drrRound drrFuel x).2 ≠ none := by
  have enough : ∀ d, 4 * (17384 - (passOn x d).deficits.get k) + distance (passOn x d) k < 4 * 17386 - 1 := fun d => by
    have := (k - (passOn x d).pointer).isLt
    simp only [distance]
    omega
  rcases drrVisit_cases x with ⟨c, rest, -, -, hv⟩ | ⟨-, hv⟩ | ⟨-, -, -, -, hv⟩
  · rw [drrFuel, drrRound_of_head (4 * 17386 - 1) hv]
    nofun
  · rw [drrFuel, drrRound_of_pass (4 * 17386 - 1) hv]
    exact drrRound_chooses_of_fuel _ rfl hq hc hk (enough 0)
  · rw [drrFuel, drrRound_of_pass (4 * 17386 - 1) hv]
    exact drrRound_chooses_of_fuel _ rfl hq hc hk (enough (credit x))

/-- Settles O30: each case of a visit is a lemma on `Port.drrVisit`, and the round chooses because the distance of a
waiting class and the deficit it lacks fall together. -/
theorem roundAlwaysChoosesAHead : Obligations.RoundAlwaysChoosesAHead := by
  refine ⟨⟨rfl, rfl, rfl, rfl⟩, fun x => ⟨drrVisit_of_empty, fun c rest h => ⟨drrVisit_of_fits h, drrVisit_of_short h⟩⟩,
    fun x n => ⟨drrRound_of_chosen n, drrRound_of_none n⟩, ?_⟩
  rintro x hq hc ⟨k, hk⟩
  obtain ⟨c, h⟩ := Option.ne_none_iff_exists'.1 (drrRound_chooses hq hc hk)
  obtain ⟨k, rest, hhead, hqueues⟩ := drrRound_takes_head drrFuel h
  exact ⟨k, c, rest, hhead, h, hqueues⟩

end Sys2Proof.Machine.AirtimeScheduling
end

section
/-!
PROOFS. The transmit opportunity of a port: the order of the choice, the GAME bucket and the next-hop MAC (R72 to R76,
R127): O29.
-/

namespace Sys2Proof.Machine.AirtimeScheduling

open Sys2Proof Sys2Proof.Machine

/-! ## The order of the choice (R73, R76) -/

theorem pop_of_nil {x : Port} {k : TClass} (h : x.queue k = []) : x.pop k = none := by
  simp only [Port.pop, h]

theorem pop_of_cons {x : Port} {k : TClass} {c : Copy} {rest : List Copy} (h : x.queue k = c :: rest) :
    x.pop k = some (c, { x with queues := put x.queues (classIx k) rest }) := by
  simp only [Port.pop, h]

/-- A port whose GAME head has been charged to the bucket, `rest` being left. -/
def chargeGame (x : Port) (c : Copy) (rest : List Copy) : Port :=
  { x with queues := put x.queues 1 rest, bucket := max (-65535) (x.bucket - (c.cost : Int)) }

theorem chooseGame_of_nil {x : Port} (h : x.queue .game = []) : x.chooseGame = none := by
  rw [Port.chooseGame, pop_of_nil h, Option.map_none]

theorem chooseGame_of_cons {x : Port} {c : Copy} {rest : List Copy} (h : x.queue .game = c :: rest) :
    x.chooseGame = some (c, chargeGame x c rest) := by
  rw [Port.chooseGame, pop_of_cons h]
  rfl

theorem anyDrr_iff (x : Port) : x.anyDrr = true ↔ ∃ k : Fin 4, x.queue (drrClass k) ≠ [] := by
  simp only [Port.anyDrr, Fin.exists_fin_succ, Bool.or_eq_true, Bool.not_eq_true', List.isEmpty_eq_false_iff]
  simp [drrClass, or_assoc]

theorem chooseRest_of_drr {x : Port} (h : ∃ k : Fin 4, x.queue (drrClass k) ≠ []) :
    x.chooseRest = Port.drrRound drrFuel x := by
  rw [Port.chooseRest, if_pos ((anyDrr_iff x).2 h)]

theorem not_anyDrr {x : Port} (h : ∀ k : Fin 4, x.queue (drrClass k) = []) : ¬x.anyDrr = true := fun hd =>
  ((anyDrr_iff x).1 hd).elim fun k hk => hk (h k)

theorem chooseRest_of_game {x : Port} {c : Copy} {rest : List Copy} (h : ∀ k : Fin 4, x.queue (drrClass k) = [])
    (hg : x.queue .game = c :: rest) : x.chooseRest = (chargeGame x c rest, some c) := by
  rw [Port.chooseRest, if_neg (not_anyDrr h), chooseGame_of_cons hg]

theorem chooseRest_of_nil {x : Port} (h : ∀ k : Fin 4, x.queue (drrClass k) = []) (hg : x.queue .game = []) :
    x.chooseRest = (x, none) := by
  rw [Port.chooseRest, if_neg (not_anyDrr h), chooseGame_of_nil hg]

theorem choose_of_ctrl {x : Port} {c : Copy} {rest : List Copy} (h : x.queue .ctrl = c :: rest) :
    x.choose = ({ x with queues := put x.queues 0 rest }, some c) := by
  rw [Port.choose, pop_of_cons h]
  rfl

theorem choose_of_game {x : Port} {c : Copy} {rest : List Copy} (h : x.queue .ctrl = []) (hb : 0 ≤ x.bucket)
    (hg : x.queue .game = c :: rest) : x.choose = (chargeGame x c rest, some c) := by
  rw [Port.choose, pop_of_nil h, chooseGame_of_cons hg]
  exact if_pos hb

theorem choose_of_rest {x : Port} (h : x.queue .ctrl = []) (hg : x.bucket < 0 ∨ x.queue .game = []) :
    x.choose = x.chooseRest := by
  rw [Port.choose, pop_of_nil h]
  rcases hg with hb | hg
  · exact if_neg (Int.not_le.2 hb)
  · rw [chooseGame_of_nil hg]
    exact ite_self _

/-- What a choice can do: a CTRL or GAME head goes, the round runs, or with every queue empty nothing is chosen. -/
theorem choose_cases (x : Port) :
    (∃ c rest, x.queue .ctrl = c :: rest ∧ x.choose = ({ x with queues := put x.queues 0 rest }, some c)) ∨
    (∃ c rest, x.queue .game = c :: rest ∧ x.choose = (chargeGame x c rest, some c)) ∨
    x.choose = Port.drrRound drrFuel x ∨ x.choose = (x, none) := by
  cases hc : x.queue .ctrl with
  | cons c rest => exact .inl ⟨c, rest, rfl, choose_of_ctrl hc⟩
  | nil =>
    by_cases hd : ∃ k : Fin 4, x.queue (drrClass k) ≠ []
    · cases hg : x.queue .game with
      | nil => exact .inr (.inr (.inl (by rw [choose_of_rest hc (.inr hg), chooseRest_of_drr hd])))
      | cons c rest =>
        by_cases hb : 0 ≤ x.bucket
        · exact .inr (.inl ⟨c, rest, rfl, choose_of_game hc hb hg⟩)
        · exact .inr (.inr (.inl (by rw [choose_of_rest hc (.inl (Int.not_le.1 hb)), chooseRest_of_drr hd])))
    · have hd : ∀ k : Fin 4, x.queue (drrClass k) = [] := by simpa using hd
      cases hg : x.queue .game with
      | nil => exact .inr (.inr (.inr (by rw [choose_of_rest hc (.inr hg), chooseRest_of_nil hd hg])))
      | cons c rest =>
        refine .inr (.inl ⟨c, rest, rfl, ?_⟩)
        by_cases hb : 0 ≤ x.bucket
        · exact choose_of_game hc hb hg
        · rw [choose_of_rest hc (.inl (Int.not_le.1 hb)), chooseRest_of_game hd hg]

/-! ## The bucket (R75) -/

/-- The thousandths of a microsecond that an advance adds to the bucket, with the remainder kept from the last one. -/
def units (x : Port) (us : Us) : Nat := min (us - x.lastAdvance).toNat 1000000 * x.config.share + x.remainder

theorem advance_of_fits {x : Port} {us : Us} (h : x.bucket + (units x us / 1000 : Nat) ≤ x.config.depth) :
    x.advance us =
      { x with bucket := x.bucket + (units x us / 1000 : Nat), remainder := units x us % 1000, lastAdvance := us } :=
  if_neg (Int.not_lt.2 h)

theorem advance_of_full {x : Port} {us : Us} (h : (x.config.depth : Int) < x.bucket + (units x us / 1000 : Nat)) :
    x.advance us = { x with bucket := x.config.depth, remainder := 0, lastAdvance := us } := if_pos h

/-- An advance changes the bucket, its remainder and the time of the last advance. -/
theorem advance_eq (x : Port) (us : Us) : x.advance us = { x with
    bucket := (x.advance us).bucket, remainder := (x.advance us).remainder, lastAdvance := us } := by
  by_cases h : (x.config.depth : Int) < x.bucket + (units x us / 1000 : Nat)
  · rw [advance_of_full h]
  · rw [advance_of_fits (Int.not_lt.1 h)]

/-! ## The next-hop MAC (R74, R127) -/

/-- The first entry present that satisfies `p` is the one at the first index that holds such an entry. -/
theorem find?_present (v : Vector (Option α) n) (p : α → Bool) :
    (v.toList.filterMap id).find? p = (firstIx v fun e => e.any p).bind v.get := by
  have hl : v.toList = (List.finRange n).map v.get := by
    refine List.ext_getElem (by simp) fun i hi _ => ?_
    simp [get_eq_getElem]
  rw [hl, List.filterMap_map, List.find?_filterMap]
  rfl

/-- The peer record of a node is the first in the peer table that has the node. -/
theorem findPeer_of_first {s : State} {n : Node} {k : Fin 7} {q : Peer} (hk : s.mlc.peers.get k = some q)
    (hq : q.node = n) (hl : ∀ j < k, ∀ y, s.mlc.peers.get j = some y → y.node ≠ n) : s.findPeer n.val = some q := by
  have first : firstIx s.mlc.peers (fun e => e.any fun y => y.node.val == n.val) = some k := by
    refine firstIx_eq_some_iff.2 ⟨by simp [hk, hq], fun j hj => ?_⟩
    rw [Option.any_eq_false_iff_get]
    intro hs
    simpa [Fin.val_inj] using hl j hj _ (Option.some_get hs).symm
  rw [State.findPeer, find?_present, first]
  exact hk

theorem findPeer_of_absent {s : State} {n : Node} (h : ∀ k q, s.mlc.peers.get k = some q → q.node ≠ n) :
    s.findPeer n.val = none := by
  refine List.find?_eq_none.2 fun q hq => ?_
  obtain ⟨e, he, rfl⟩ := List.mem_filterMap.1 hq
  obtain ⟨k, hk, hg⟩ := List.getElem_of_mem he
  have := h ⟨k, by simpa using hk⟩ q (by simpa [get_eq_getElem] using hg)
  simpa [Fin.val_inj] using this

/-! ## The opportunity (R72) -/

theorem exec_transmitOpportunity {s : State} {p : PortId} (ho : (s.port p).opportunity = true)
    (he : (s.port p).enabled = true) (ht : (s.port p).tx = .ready) :
    exec (.transmitOpportunity p) s = .next (s.setPort p (s.opportunityOf (s.port p))) := by
  change execTransmitOpportunity p s = _
  simp [execTransmitOpportunity, ho, he, ht]

theorem opportunityOf_of_some {s : State} {x : Port} {c : Copy} (h : ((x.advance s.sck.us).choose).2 = some c) :
    s.opportunityOf x = { ((x.advance s.sck.us).choose).1 with
      tx := .sending, onLink := some ⟨c, s.hopMac c⟩, opportunity := false } := by
  simp only [State.opportunityOf, h]

theorem opportunityOf_of_none {s : State} {x : Port} (h : ((x.advance s.sck.us).choose).2 = none) :
    s.opportunityOf x = { ((x.advance s.sck.us).choose).1 with tx := .ready, opportunity := false } := by
  simp only [State.opportunityOf, h]

/-- Settles O29: the opportunity sends what `Port.choose` answers, and each clause of the order of the choice, of the
bucket and of the next-hop MAC is one case of its own function. -/
theorem transmitOpportunitySendsTheSchedulersChoice : Obligations.TransmitOpportunitySendsTheSchedulersChoice := by
  refine ⟨fun s p ho he ht => ⟨fun c hc => ?_, fun hc => ?_⟩, fun x => ⟨fun c rest => choose_of_ctrl,
    fun c rest => choose_of_game, fun h hg hd => ?_, fun c rest h hb hd hg => ?_, fun h => ?_⟩,
    fun x us => ⟨?_, fun h => ?_, fun h => ?_, advance_eq x us⟩,
    fun s c => ⟨fun h => ?_, fun n hn => ⟨?_, fun h => ?_⟩⟩⟩
  · rw [exec_transmitOpportunity ho he ht, opportunityOf_of_some hc]
  · rw [exec_transmitOpportunity ho he ht, opportunityOf_of_none hc]
  · rw [choose_of_rest h hg, chooseRest_of_drr hd]
  · rw [choose_of_rest h (.inl hb), chooseRest_of_game hd hg]
    rfl
  · rw [choose_of_rest (h .ctrl) (.inr (h .game)), chooseRest_of_nil (fun k => h _) (h .game)]
  · rw [advance_eq]
  · rw [advance_of_fits h]
    refine ⟨?_, Nat.mod_lt _ (by decide)⟩
    change 1000 * (x.bucket + (units x us / 1000 : Nat)) + ((units x us % 1000 : Nat) : Int) =
      1000 * x.bucket + (units x us : Nat)
    omega
  · rw [advance_of_full h]
    exact ⟨rfl, rfl⟩
  · rw [State.hopMac, h]
  · intro k q hk hq hl
    simp only [State.hopMac, hn, findPeer_of_first hk hq hl, Option.map_some]
  · simp only [State.hopMac, hn, findPeer_of_absent h, Option.map_none]

end Sys2Proof.Machine.AirtimeScheduling
end

section
/-!
PROOFS. Rate notices, signal samples and the reports of a port's device (R72, R74, R80, R89, R90, R139): O23.
-/

namespace Sys2Proof.Machine.AirtimeScheduling

open Sys2Proof Sys2Proof.Machine

/-! ## The signal average (R90) -/

theorem signalStep_none (sample : Int) : signalStep none sample = 16 * max (-127) (min 0 sample) := by
  simp only [signalStep, clampInt]
  omega

/-- The average moves by an eighth of the difference, rounded down. -/
theorem signalStep_some (a sample : Int) :
    signalStep (some a) sample = a + (16 * max (-127) (min 0 sample) - a) / 8 := by
  have hclamp : clampInt (-127) 0 sample = max (-127) (min 0 sample) := by
    simp only [clampInt]
    omega
  rw [signalStep, hclamp, Int.fdiv_eq_ediv_of_nonneg _ (by decide)]

/-- The average stays within the range of the clamped samples. -/
theorem signalStep_range (avg : Option Int) (sample : Int) (h : ∀ a, avg = some a → -2032 ≤ a ∧ a ≤ 0) :
    -2032 ≤ signalStep avg sample ∧ signalStep avg sample ≤ 0 := by
  cases avg with
  | none =>
    rw [signalStep_none]
    omega
  | some a =>
    have ha := h a rfl
    rw [signalStep_some]
    omega

/-! ## The reports of a port's device (R72, R74, R80) -/

/-- A completion in SENDING counts the frame under its class and returns its buffer. -/
theorem exec_transmitCompletion_of_sending {s : State} {p : PortId} {l : OnLink} (ht : (s.port p).tx = .sending)
    (hl : (s.port p).onLink = some l) : exec (.transmitCompletion p) s = .next
      (((s.setPort p { s.port p with tx := .notReady, onLink := none }).count p l.copy.cls
        (.sent l.copy.frame.length)).returnBuffers 1) := by
  change execTransmitCompletion p s = _
  simp only [execTransmitCompletion, ht, hl]

theorem exec_transmitCompletion_of_idle {s : State} {p : PortId} (ht : (s.port p).tx ≠ .sending) :
    exec (.transmitCompletion p) s = .next (if (s.port p).ghosts = 0 then s
      else (s.setPort p { s.port p with ghosts := (s.port p).ghosts - 1 }).returnBuffers 1) := by
  change execTransmitCompletion p s = _
  cases h : (s.port p).tx with
  | sending => exact absurd h ht
  | notReady => simp only [execTransmitCompletion, h]
  | ready => simp only [execTransmitCompletion, h]

theorem exec_linkReady_of_notReady {s : State} {p : PortId} (h : (s.port p).tx = .notReady) : exec (.linkReady p) s =
    .next (s.setPort p { s.port p with tx := .ready, opportunity := (s.port p).enabled }) := by
  change execLinkReady p s = _
  simp only [execLinkReady, h]

theorem exec_linkReady_of_other {s : State} {p : PortId} (h : (s.port p).tx ≠ .notReady) :
    exec (.linkReady p) s = .next s := by
  change execLinkReady p s = _
  cases ht : (s.port p).tx with
  | notReady => exact absurd ht h
  | ready => simp only [execLinkReady, ht]
  | sending => simp only [execLinkReady, ht]

/-- Settles O23: one lemma per report of the device, and the signal average by its equation. -/
theorem receiveNoticesSamplesAndTheLink : Obligations.ReceiveNoticesSamplesAndTheLink := by
  refine ⟨fun s radio mac rate i h => ?_, fun s radio mac rate h => ?_, fun s mac sample => rfl,
    fun s p => exec_linkReady_of_notReady, fun s p => exec_linkReady_of_other, fun s p l ht hl => ?_,
    fun s p ht hg => ?_, fun s p ht hg => ?_, signalStep_none, fun a sample => ?_, signalStep_range⟩
  · change execRateNotice radio mac rate s = _
    simp only [execRateNotice, h, clamp]
  · change execRateNotice radio mac rate s = _
    simp only [execRateNotice, h]
  · rw [exec_transmitCompletion_of_sending ht hl, State.count, State.setPort_port_same]
    simp only [State.setPort, State.returnBuffers, put_put]
    rfl
  · rw [exec_transmitCompletion_of_idle ht, if_neg hg]
    rfl
  · rw [exec_transmitCompletion_of_idle ht, if_pos hg]
  · rw [signalStep_some]
    omega

end Sys2Proof.Machine.AirtimeScheduling
end

section
/-!
PROOFS. What every operation of a port keeps of the ranges of its bucket, its deficits and its costs (R68, R69, R75 to
R79).
-/

namespace Sys2Proof.Machine.AirtimeScheduling

open Sys2Proof Sys2Proof.Machine Sys2Proof.Machine.FlowClassification

/-! ## The GAME bucket of a port (R75, R76) -/

/-- The range of a bucket depends on the bucket, its remainder and the depth alone. -/
theorem bucketOk_congr {x y : Port} (h : BucketOk x) (hb : y.bucket = x.bucket) (hr : y.remainder = x.remainder)
    (hc : y.config.depth = x.config.depth) : BucketOk y :=
  ⟨hb ▸ h.low, hb ▸ hc ▸ h.high, hr ▸ h.remainder⟩

theorem bucketOk_advance {x : Port} (us : Us) (h : BucketOk x) : BucketOk (x.advance us) := by
  have hlow := h.low
  by_cases hf : (x.config.depth : Int) < x.bucket + (units x us / 1000 : Nat)
  · rw [advance_of_full hf]
    exact ⟨by change -65535 ≤ (x.config.depth : Int); omega, Int.le_refl _, by change 0 < 1000; decide⟩
  · rw [advance_of_fits (Int.not_lt.1 hf)]
    refine ⟨?_, Int.not_lt.1 hf, Nat.mod_lt _ (by decide)⟩
    change -65535 ≤ x.bucket + (units x us / 1000 : Nat)
    omega

/-- A charge leaves the bucket at -65535 or above. -/
theorem bucketOk_chargeGame {x : Port} (c : Copy) (rest : List Copy) (h : BucketOk x) :
    BucketOk (chargeGame x c rest) := by
  have hlow := h.low
  have hhigh := h.high
  refine ⟨Int.le_max_left _ _, ?_, h.remainder⟩
  change max (-65535) (x.bucket - (c.cost : Int)) ≤ (x.config.depth : Int)
  omega

theorem bucketOk_drrVisit {x : Port} (h : BucketOk x) : BucketOk x.drrVisit.1 := by
  rcases drrVisit_cases x with ⟨c, rest, -, -, hv⟩ | ⟨-, hv⟩ | ⟨-, -, -, -, hv⟩ <;> rw [hv]
  · exact bucketOk_congr h rfl rfl rfl
  · exact bucketOk_congr h rfl rfl rfl
  · exact bucketOk_congr h rfl rfl rfl

theorem bucketOk_choose {x : Port} (h : BucketOk x) : BucketOk x.choose.1 := by
  rcases choose_cases x with ⟨c, rest, -, hc⟩ | ⟨c, rest, -, hc⟩ | hc | hc <;> rw [hc]
  · exact bucketOk_congr h rfl rfl rfl
  · exact bucketOk_chargeGame c rest h
  · exact drrRound_induct (fun _ => bucketOk_drrVisit) drrFuel h
  · exact h

/-! ## The deficits of a port (R77, R78) -/

/-- What is asked of the deficits depends on none of a port's other fields than these. -/
theorem roundOk_congr {p : PortId} {x y : Port} (h : RoundOk p x) (hc : y.config = x.config)
    (hq : y.queues = x.queues) (hi : ∀ z, y.ingress = some z → z.frame.length ≤ 2048)
    (hd : y.deficits = x.deficits) (hp : y.pointer = x.pointer) (ha : y.quantumAdded = x.quantumAdded) :
    RoundOk p y := by
  have hqueue : ∀ c, y.queue c = x.queue c := fun c => by rw [Port.queue, Port.queue, hq]
  refine ⟨?_, ?_, ?_, hi, ?_, ?_⟩
  · rw [hc]; exact h.overhead
  · rw [hc]; exact h.quantum
  · simpa only [hqueue] using h.cost
  · simpa only [hqueue, hd] using h.empty
  · rw [hc, hd, hp, ha]; exact h.deficit

theorem ceilDiv_le (a b : Nat) : ceilDiv a b ≤ a := by
  unfold ceilDiv
  cases a with
  | zero =>
    rcases Nat.eq_zero_or_pos b with rfl | hb
    · simp
    · exact Nat.le_of_eq (Nat.div_eq_of_lt (by omega))
  | succ a =>
    cases b with
    | zero => simp
    | succ b =>
      refine Nat.div_le_of_le_mul ?_
      rw [Nat.succ_mul, Nat.mul_succ]
      omega

/-- A frame of at most 2048 bytes costs at most 17384, whatever its rate. -/
theorem copyCost_le {p : PortId} {overhead len : Nat} (rate : Nat) (ho : portWired p = false → overhead ≤ 1000)
    (hl : len ≤ 2048) : copyCost p overhead len rate ≤ 17384 := by
  have hwire := ceilDiv_le (8 * (len + 20)) rate
  have hair := ceilDiv_le (8 * len) rate
  cases hp : portWired p with
  | true =>
    simp only [copyCost, hp, if_true]
    omega
  | false =>
    have := ho hp
    simp only [copyCost, hp, Bool.false_eq_true, if_false]
    omega

theorem queue_put (x : Port) (c d : TClass) (l : List Copy) :
    ({ x with queues := put x.queues (classIx c) l } : Port).queue d = if d = c then l else x.queue d := by
  have hinj : classIx d = classIx c ↔ d = c := by cases c <;> cases d <;> decide
  simp only [Port.queue, get_put, hinj]

/-- A copy at the tail of a queue empties no queue; its cost is what the other copies' costs are held to. -/
theorem roundOk_append {p : PortId} {x : Port} (k : TClass) {y : Copy} (o : Bool) (h : RoundOk p x)
    (hy : y.cost ≤ 17384) :
    RoundOk p { x with queues := put x.queues (classIx k) (x.queues.get (classIx k) ++ [y]), opportunity := o } := by
  have hqueue : ∀ c, ({ x with
      queues := put x.queues (classIx k) (x.queues.get (classIx k) ++ [y]), opportunity := o } : Port).queue c =
      if c = k then x.queue k ++ [y] else x.queue c := fun c => queue_put x k c _
  refine ⟨h.overhead, h.quantum, fun c z hz => ?_, h.taken, fun j hj => ?_, h.deficit⟩
  · rw [hqueue] at hz
    split at hz
    · rcases List.mem_append.1 hz with hz | hz
      · exact h.cost k z hz
      · rw [List.mem_singleton.1 hz]
        exact hy
    · exact h.cost c z hz
  · rw [hqueue] at hj
    split at hj
    · simp at hj
    · exact h.empty j hj

/-- A queue that loses its head keeps its costs, and where it belongs to no class of the round nothing else matters. -/
theorem roundOk_pop {p : PortId} {x : Port} {k : TClass} {c : Copy} {rest : List Copy} (b : Int) (h : RoundOk p x)
    (hq : x.queue k = c :: rest) (hk : ∀ j, drrClass j ≠ k) :
    RoundOk p { x with queues := put x.queues (classIx k) rest, bucket := b } := by
  have hqueue : ∀ d, ({ x with queues := put x.queues (classIx k) rest, bucket := b } : Port).queue d =
      if d = k then rest else x.queue d := fun d => queue_put x k d _
  refine ⟨h.overhead, h.quantum, fun d z hz => ?_, h.taken, fun j hj => ?_, h.deficit⟩
  · rw [hqueue] at hz
    split at hz
    · exact h.cost k z (by rw [hq]; exact List.mem_cons_of_mem _ hz)
    · exact h.cost d z hz
  · rw [hqueue, if_neg (hk j)] at hj
    exact h.empty j hj

theorem drrClass_injective {j k : Fin 4} (h : drrClass j = drrClass k) : j = k := by
  revert j k
  decide

/-- The deficit of a port's pointer class never exceeds the credit of a visit, nor the credit its bound. -/
theorem credit_le {p : PortId} {x : Port} (h : RoundOk p x) :
    credit x ≤ 17383 + x.config.quanta.get x.pointer := by
  have hd := h.deficit x.pointer
  unfold credit
  cases ha : x.quantumAdded with
  | true => simpa [ha] using hd
  | false =>
    simp only [ha, Bool.false_eq_true, and_false, if_false] at hd ⊢
    omega

/-- The pointer leaves a class with a deficit at most 17383, which is 0 where the class is empty. -/
theorem roundOk_passOn {p : PortId} {x : Port} {d : Nat} (h : RoundOk p x) (hd : d ≤ 17383)
    (he : x.queue (drrClass x.pointer) = [] → d = 0) : RoundOk p (passOn x d) := by
  refine ⟨h.overhead, h.quantum, h.cost, h.taken, fun k hk => ?_, fun k => ?_⟩
  · change (put x.deficits x.pointer d).get k = 0
    rw [get_put]
    split
    · next hkp => exact he (hkp ▸ hk)
    · exact h.empty k hk
  · change (put x.deficits x.pointer d).get k ≤ 17383 + if _ ∧ false = true then _ else 0
    rw [get_put]
    split
    · omega
    · next hkp =>
      have := h.deficit k
      rw [if_neg fun hc => hkp hc.1.symm] at this
      omega

theorem roundOk_sendHead {p : PortId} {x : Port} {c : Copy} {rest : List Copy} (h : RoundOk p x)
    (hq : x.queue (drrClass x.pointer) = c :: rest) : RoundOk p (sendHead x c rest) := by
  have hqueue : ∀ d, (sendHead x c rest).queue d = if d = drrClass x.pointer then rest else x.queue d := fun d =>
    queue_put x (drrClass x.pointer) d rest
  have hdef : ∀ k, (sendHead x c rest).deficits.get k =
      if k = x.pointer then (if rest = [] then 0 else credit x - c.cost) else x.deficits.get k := fun k =>
    get_put _ _ _ _
  refine ⟨h.overhead, h.quantum, fun d z hz => ?_, h.taken, fun k hk => ?_, fun k => ?_⟩
  · rw [hqueue] at hz
    split at hz
    · exact h.cost _ z (by rw [hq]; exact List.mem_cons_of_mem _ hz)
    · exact h.cost d z hz
  · rw [hqueue] at hk
    rw [hdef]
    by_cases hkp : k = x.pointer
    · rw [hkp, if_pos rfl] at hk
      rw [if_pos hkp, if_pos hk]
    · rw [if_neg fun e => hkp (drrClass_injective e)] at hk
      rw [if_neg hkp]
      exact h.empty k hk
  · rw [hdef]
    have hcredit := credit_le h
    by_cases hkp : k = x.pointer
    · rw [if_pos hkp, hkp]
      change _ ≤ 17383 + if x.pointer = x.pointer ∧ true = true then x.config.quanta.get x.pointer else 0
      rw [if_pos (And.intro rfl rfl)]
      split <;> omega
    · rw [if_neg hkp]
      have := h.deficit k
      rw [if_neg fun hc => hkp hc.1.symm] at this
      omega

/-- A visit that does not choose left a credit below a cost, so at most 17383. -/
theorem roundOk_drrVisit {p : PortId} {x : Port} (h : RoundOk p x) : RoundOk p x.drrVisit.1 := by
  rcases drrVisit_cases x with ⟨c, rest, hq, -, hv⟩ | ⟨-, hv⟩ | ⟨c, rest, hq, hlt, hv⟩ <;> rw [hv]
  · exact roundOk_sendHead h hq
  · exact roundOk_passOn h (Nat.zero_le _) fun _ => rfl
  · have := h.cost _ c (by rw [hq]; exact List.mem_cons_self)
    exact roundOk_passOn h (by omega) fun he => by rw [hq] at he; cases he

theorem roundOk_choose {p : PortId} {x : Port} (h : RoundOk p x) : RoundOk p x.choose.1 := by
  rcases choose_cases x with ⟨c, rest, hq, hc⟩ | ⟨c, rest, hq, hc⟩ | hc | hc <;> rw [hc]
  · exact roundOk_pop x.bucket h hq (by decide)
  · exact roundOk_pop _ h hq (by decide)
  · exact drrRound_induct (fun _ => roundOk_drrVisit) drrFuel h
  · exact h

/-- A purge keeps the costs of the copies that stay, and the deficits of the classes that keep a copy. -/
theorem roundOk_purge {p : PortId} {x : Port} (d : Copy → Bool) (h : RoundOk p x) : RoundOk p (x.purge d).1 := by
  have hdef : ∀ k, (x.purge d).1.deficits.get k =
      if (x.purge d).1.queue (drrClass k) = [] then 0 else x.deficits.get k := fun k => get_ofFn _ _
  refine ⟨h.overhead, h.quantum, fun c y hy => ?_, h.taken, fun k hk => ?_, fun k => ?_⟩
  · rw [purge_queue] at hy
    exact h.cost c y (List.mem_filter.1 hy).1
  · rw [hdef, if_pos hk]
  · rw [hdef]
    split
    · exact Nat.zero_le _
    · exact h.deficit k

/-! ## SET_PORT, the opportunity and the reset of a port (R29, R72, R79, R80) -/

theorem bucketOk_configure (x : Port) (c : PortConfig) (e : Bool) (us : Us) : BucketOk (x.configure c e us) :=
  ⟨by change -65535 ≤ (c.depth : Int); omega, Int.le_refl _, by change 0 < 1000; decide⟩

theorem roundOk_configure {p : PortId} {x : Port} (o : Order) (e : Bool) (us : Us) (h : RoundOk p x) :
    RoundOk p (x.configure (configOf p o) e us) := by
  refine ⟨fun hp => ?_, fun k => ?_, h.cost, h.taken, fun k _ => get_replicate _ _ _, fun k => ?_⟩
  · change (configOf p o).overhead ≤ 1000
    simp only [configOf, hp, Bool.false_eq_true, if_false]
    exact Nat.min_le_left _ _
  · change 1 ≤ (Vector.ofFn _).get k
    rw [get_ofFn, clamp]
    omega
  · change (Vector.replicate 4 0).get k ≤ _
    rw [get_replicate]
    exact Nat.zero_le _

theorem bucketOk_opportunityOf (s : State) {x : Port} (h : BucketOk x) : BucketOk (s.opportunityOf x) := by
  have hc := bucketOk_choose (bucketOk_advance s.sck.us h)
  cases hr : ((x.advance s.sck.us).choose).2 with
  | none => rw [opportunityOf_of_none hr]; exact bucketOk_congr hc rfl rfl rfl
  | some c => rw [opportunityOf_of_some hr]; exact bucketOk_congr hc rfl rfl rfl

theorem roundOk_opportunityOf (s : State) {p : PortId} {x : Port} (h : RoundOk p x) :
    RoundOk p (s.opportunityOf x) := by
  have ha : RoundOk p (x.advance s.sck.us) := by
    rw [advance_eq]
    exact roundOk_congr h rfl rfl h.taken rfl rfl rfl
  have hc := roundOk_choose ha
  cases hr : ((x.advance s.sck.us).choose).2 with
  | none => rw [opportunityOf_of_none hr]; exact roundOk_congr hc rfl rfl hc.taken rfl rfl rfl
  | some c => rw [opportunityOf_of_some hr]; exact roundOk_congr hc rfl rfl hc.taken rfl rfl rfl

theorem bucketOk_reset (p : PortId) : BucketOk (Port.reset p) := by
  refine ⟨?_, ?_, ?_⟩ <;> simp [Port.reset, PortConfig.default]

theorem roundOk_reset (p : PortId) : RoundOk p (Port.reset p) := by
  have hqueue : ∀ c, (Port.reset p).queue c = [] := fun c => get_replicate _ _ _
  have hdef : ∀ k, (Port.reset p).deficits.get k = 0 := fun k => get_replicate _ _ _
  refine ⟨fun _ => ?_, ?_, fun c y hy => ?_, fun y hy => ?_, fun k _ => hdef k, fun k => ?_⟩
  · change defaultOverhead p ≤ 1000
    cases p <;> decide
  · change ∀ k : Fin 4, 1 ≤ (#v[4000, 2000, 1000, 250] : Vector Nat 4).get k
    decide
  · rw [hqueue] at hy
    cases hy
  · change none = some y at hy
    cases hy
  · rw [hdef]
    exact Nat.zero_le _

end Sys2Proof.Machine.AirtimeScheduling
end

section
/-!
PROOFS. The ports and the records are all that the ranges of the scheduler speak of, and most operations leave both. One
simp lemma per operation says so: an operation with branches leaves both because the operations its branches end in do.
-/

namespace Sys2Proof.Machine.AirtimeScheduling

open Sys2Proof Sys2Proof.Machine Sys2Proof.Machine.FlowClassification

/-- The ports and the station records of a state. -/
def ground (s : State) : Vector Port 5 × Vector Station 128 := (s.frp.ports, s.stt.recs)

@[simp] theorem ground_mk (l : List Instr) (e : Exu) (f : Frp) (c : Flc) (t : Stt) (k : Sck) (p : Pfe) (m : Mlc)
    (h : Hoc) (u : Ups) (x : Fls) : ground ⟨l, e, f, c, t, k, p, m, h, u, x⟩ = (f.ports, t.recs) := rfl

@[simp] theorem ground_parts (s : State) : (s.frp.ports, s.stt.recs) = ground s := rfl

/-! ## Updates of one field -/

@[simp] theorem ground_setEvent (s : State) (e : Event) : ground (s.setEvent e) = ground s := rfl
@[simp] theorem ground_giveReport (s : State) (k : ReportKind) (n : Nat) (b : List Byte) :
    ground (s.giveReport k n b) = ground s := rfl
@[simp] theorem ground_trigger (s : State) (t : Trigger) : ground (s.trigger t) = ground s := rfl
@[simp] theorem ground_triggerFor (s : State) (p : ProfIx) (c : Cause) : ground (s.triggerFor p c) = ground s := rfl
@[simp] theorem ground_triggerAll (s : State) (c : Cause) (e : Option ClockEvent) :
    ground (s.triggerAll c e) = ground s := rfl
@[simp] theorem ground_notice (s : State) (n : Notice) : ground (s.notice n) = ground s := rfl
@[simp] theorem ground_setProfile (s : State) (p : ProfIx) (x : Profile) : ground (s.setProfile p x) = ground s := rfl
@[simp] theorem ground_mark (s : State) (id : Nat) (p : Progress) : ground (s.mark id p) = ground s := rfl
@[simp] theorem ground_finish (s : State) (id : Nat) (c : Status) (d : Byte) (l : List Byte) :
    ground (s.finish id c d l) = ground s := rfl
@[simp] theorem ground_refuse (s : State) (o : Order) (c : Status) : ground (s.refuse o c) = ground s := rfl
@[simp] theorem ground_accept (s : State) (o : Order) (l : List Byte) : ground (s.accept o l) = ground s := rfl
@[simp] theorem ground_dropBulk (s : State) (id : Nat) : ground (s.dropBulk id) = ground s := rfl
@[simp] theorem ground_halt (s : State) (c : FaultCause) : ground (s.halt c) = ground s := rfl
@[simp] theorem ground_takeBuffer (s : State) : ground s.takeBuffer = ground s := rfl
@[simp] theorem ground_returnBuffers (s : State) (n : Nat) : ground (s.returnBuffers n) = ground s := rfl
@[simp] theorem ground_dropAddresses (s : State) (d : AddrEntry → Bool) : ground (s.dropAddresses d) = ground s := rfl
@[simp] theorem ground_placeFlow (s : State) (f : Flow) : ground (s.placeFlow f) = ground s := rfl
@[simp] theorem ground_dropFlows (s : State) (d : Flow → Bool) : ground (s.dropFlows d) = ground s := rfl
@[simp] theorem ground_putPeer (s : State) (k : Fin 7) (q : Option Peer) : ground (s.putPeer k q) = ground s := rfl
@[simp] theorem ground_setPresence (s : State) (k : Fin 7) (q : Peer) (b : Bool) (c : PresenceCause) :
    ground (s.setPresence k q b c) = ground s := rfl
@[simp] theorem ground_setListen (s : State) (l : List Listen) : ground (s.setListen l) = ground s := rfl
@[simp] theorem ground_setWork (s : State) (w : UpsWork) : ground (s.setWork w) = ground s := rfl
@[simp] theorem ground_setChunk (s : State) (k : Nat) (c : ChunkState) : ground (s.setChunk k c) = ground s := rfl
@[simp] theorem ground_setBuf (s : State) (b : Fin 4) (x : Option Buf) : ground (s.setBuf b x) = ground s := rfl
@[simp] theorem ground_setFetch (s : State) (f : Option Fetch) : ground (s.setFetch f) = ground s := rfl
@[simp] theorem ground_setBoot (s : State) (b : Boot) : ground (s.setBoot b) = ground s := rfl
@[simp] theorem ground_dropFlash (s : State) (d : FlashOwner → Bool) : ground (s.dropFlash d) = ground s := rfl
@[simp] theorem ground_endWork (s : State) (id : Nat) (c : Status) (d : Byte) (l : List Byte) :
    ground (s.endWork id c d l) = ground s := rfl
@[simp] theorem ground_chunkFailed (s : State) (k c : Nat) : ground (s.chunkFailed k c) = ground s := rfl
@[simp] theorem ground_complete (s : State) : ground s.complete = ground s := rfl
@[simp] theorem ground_endHold (s : State) (c : HoldCause) : ground (s.endHold c) = ground s := rfl
@[simp] theorem ground_discard (s : State) (d : Discard) : ground (s.discard d) = ground s := rfl
@[simp] theorem ground_writeRule (s : State) (i : Fin 64) (r : Rule) : ground (s.writeRule i r) = ground s := rfl
@[simp] theorem ground_giveMinute (s : State) (k : MinuteKind) (c : Cause) (e : ClockEvent) :
    ground (s.giveMinute k c e) = ground s := rfl
@[simp] theorem ground_cancelStagingOrders (s : State) : ground s.cancelStagingOrders = ground s := rfl
@[simp] theorem ground_noticeTaken (s : State) (l : List Notice) : ground (s.noticeTaken l) = ground s := rfl
@[simp] theorem ground_dropServesOf (s : State) (n : Node) : ground (s.dropServesOf n) = ground s := rfl
@[simp] theorem ground_newHandoffId (s : State) : ground s.newHandoffId.1 = ground s := rfl

/-! ## The exchange (chapter 1) -/

@[simp] theorem ground_arbitrate (s : State) : ground s.arbitrate = ground s := by
  obtain ⟨c, b, w, h⟩ := s.arbitrate_spec
  rw [h]; rfl

@[simp] theorem ground_request (s : State) (l : List Access) : ground (s.request l) = ground s := ground_arbitrate _

@[simp] theorem ground_bulkRead (s : State) (o : Order) (offset len : Nat) :
    ground (s.bulkRead o offset len) = ground s := ground_request _ _

@[simp] theorem ground_bulkWrite (s : State) (o : Order) (offset : Nat) (data : List Byte) :
    ground (s.bulkWrite o offset data) = ground s := ground_request _ _

@[simp] theorem ground_busFree (s : State) : ground s.busFree = ground s := ground_arbitrate _

@[simp] theorem ground_causeLook (s : State) : ground s.causeLook = ground s := by
  obtain ⟨l, p, h⟩ := s.causeLook_spec
  rw [h]; rfl

@[simp] theorem ground_endLook (s : State) : ground s.endLook = ground s := by
  obtain ⟨l, p, h⟩ := s.endLook_spec
  rw [h]; rfl

@[simp] theorem ground_lookChain (s : State) : ground s.lookChain = ground s := by
  obtain ⟨l, p, c, b, w, h⟩ := s.lookChain_spec
  rw [h]; rfl

@[simp] theorem ground_drainEnd (s : State) : ground s.drainEnd = ground s := by
  obtain ⟨l, p, c, b, w, h⟩ := s.drainEnd_spec
  rw [h]; rfl

@[simp] theorem ground_placeFails (s : State) : ground s.placeFails = ground s := ground_drainEnd _

@[simp] theorem ground_reportReaches (s : State) (r : Report) : ground (s.reportReaches r) = ground s := by
  obtain ⟨l, p, e, m, h, -⟩ := s.reportReaches_spec r
  rw [h]; rfl

@[simp] theorem ground_areaFault (s : State) (c : FaultCause) : ground (s.areaFault c) = ground s := by
  unfold State.areaFault
  split <;> rfl

@[simp] theorem ground_headerRead (s : State) (ok : Bool) (h : List Byte) : ground (s.headerRead ok h) = ground s := by
  simp only [State.headerRead]
  split
  · split
    · rw [ground_causeLook]; rfl
    · rfl
  · split
    · rfl
    · rw [ground_areaFault]; rfl

@[simp] theorem ground_takeRun (s : State) (n : Bool) : ground (s.takeRun n) = ground s := by
  rw [State.takeRun, ground_request]; rfl

@[simp] theorem ground_controlRun (s : State) (n : Bool) : ground (s.controlRun n) = ground s := by
  unfold State.controlRun
  split
  · rfl
  · split
    · exact ground_takeRun _ _
    · exact ground_takeRun _ _
    · split
      · exact ground_causeLook s
      · rfl
    · rfl

@[simp] theorem ground_leaveFlight (s : State) (id : Nat) : ground (s.leaveFlight id) = ground s := by
  simp only [State.leaveFlight]
  split
  · exact ground_causeLook _
  · rfl

@[simp] theorem ground_tableStart (s : State) (o : Order) (table start span capacity dest : Nat) :
    ground (s.tableStart o table start span capacity dest) = ground s := by
  rw [State.tableStart, ground_bulkWrite]; rfl

@[simp] theorem ground_tableGoesOn (s : State) (o : Order) (w : TableWork) : ground (s.tableGoesOn o w) = ground s := by
  simp only [State.tableGoesOn]
  split
  · rfl
  · exact ground_bulkWrite _ _ _ _

@[simp] theorem ground_lookPointerIn (s : State) (d : List Byte) : ground (s.lookPointerIn d) = ground s := by
  simp only [State.lookPointerIn]
  repeat' split
  all_goals simp

@[simp] theorem ground_lookHeadIn (s : State) (d : List Byte) : ground (s.lookHeadIn d) = ground s := by
  simp only [State.lookHeadIn]
  repeat' split
  all_goals simp

@[simp] theorem ground_lookRestIn (s : State) (d : List Byte) : ground (s.lookRestIn d) = ground s := by
  simp only [State.lookRestIn]
  repeat' split
  all_goals simp

@[simp] theorem ground_placePointerIn (s : State) (d : List Byte) : ground (s.placePointerIn d) = ground s := by
  simp only [State.placePointerIn]
  repeat' split
  all_goals simp

@[simp] theorem ground_placeStateIn (s : State) (d : List Byte) : ground (s.placeStateIn d) = ground s := by
  simp only [State.placeStateIn]
  repeat' split
  all_goals simp

@[simp] theorem ground_placeBodyWritten (s : State) : ground s.placeBodyWritten = ground s := by
  unfold State.placeBodyWritten
  split <;> rfl

@[simp] theorem ground_placed (s : State) : ground s.placed = ground s := by
  simp only [State.placed]
  repeat' split
  all_goals simp

/-! ## The flash and the stager (chapter 10) -/

@[simp] theorem ground_startFlash (s : State) : ground s.startFlash = ground s := by
  obtain ⟨o, w, h⟩ := s.startFlash_spec
  rw [h]; rfl

@[simp] theorem ground_flashRequest (s : State) (o : FlashOp) : ground (s.flashRequest o) = ground s :=
  ground_startFlash _

@[simp] theorem ground_opEnds (s : State) : ground s.opEnds = ground s := ground_startFlash _

@[simp] theorem ground_stageInto (s : State) (b : Fin 4) (id chunk offset : Nat) :
    ground (s.stageInto b id chunk offset) = ground s := by
  obtain ⟨v, w, c, x, l, h⟩ := s.stageInto_spec b id chunk offset
  rw [h]; rfl

@[simp] theorem ground_freeBuf (s : State) (b : Fin 4) : ground (s.freeBuf b) = ground s := by
  obtain ⟨v, w, c, x, l, h⟩ := s.freeBuf_spec b
  rw [h]; rfl

@[simp] theorem ground_stageEnds (s : State) (o : Option Nat) (c : Status) (l : List Byte) :
    ground (s.stageEnds o c l) = ground s := by
  cases o <;> rfl

@[simp] theorem ground_dropServes (s : State) : ground s.dropServes = ground s := by
  simp only [State.dropServes]
  repeat' split
  all_goals rfl

@[simp] theorem ground_serveEnds (s : State) (clean : Bool) : ground (s.serveEnds clean) = ground s := by
  simp only [State.serveEnds]
  repeat' split
  all_goals rfl

@[simp] theorem ground_eraseSlotRecord (s : State) (w : FlashOwner) : ground (s.eraseSlotRecord w) = ground s :=
  ground_flashRequest _ _

@[simp] theorem ground_programSlotRecord (s : State) (r : SlotRecord) (w : FlashOwner) :
    ground (s.programSlotRecord r w) = ground s := ground_flashRequest _ _

@[simp] theorem ground_dropStaging (s : State) : ground s.dropStaging = ground s := by
  unfold State.dropStaging
  split <;> rfl

@[simp] theorem ground_cancelJoins (s : State) (id : Nat) : ground (s.cancelJoins id) = ground s := by
  unfold State.cancelJoins
  split <;> simp

@[simp] theorem ground_manifestHeadIn (s : State) (o : Order) (b : List Byte) :
    ground (s.manifestHeadIn o b) = ground s := by
  simp only [State.manifestHeadIn]
  repeat' split
  all_goals simp

@[simp] theorem ground_manifestIn (s : State) (id : Nat) (b : List Byte) : ground (s.manifestIn id b) = ground s := by
  simp only [State.manifestIn]
  repeat' split
  all_goals simp

@[simp] theorem ground_programManifest (s : State) (id : Nat) (b : List Byte) (k : Nat) :
    ground (s.programManifest id b k) = ground s := by
  simp [State.programManifest]

@[simp] theorem ground_beginFails (s : State) (id : Nat) : ground (s.beginFails id) = ground s := rfl

@[simp] theorem ground_beginDone (s : State) (id : Nat) (b : List Byte) : ground (s.beginDone id b) = ground s := by
  unfold State.beginDone
  split <;> rfl

@[simp] theorem ground_rescanChunk (s : State) (m : Manifest) (id k : Nat) :
    ground (s.rescanChunk m id k) = ground s := by
  simp [State.rescanChunk]

@[simp] theorem ground_resumeIn (s : State) (id : Nat) (b : List Byte) : ground (s.resumeIn id b) = ground s := by
  simp only [State.resumeIn]
  repeat' split
  all_goals simp

@[simp] theorem ground_rescanEnds (s : State) (id : Nat) : ground (s.rescanEnds id) = ground s := by
  simp only [State.rescanEnds]
  split <;> rfl

@[simp] theorem ground_rescanIn (s : State) (id k : Nat) (d : List Byte) : ground (s.rescanIn id k d) = ground s := by
  simp only [State.rescanIn]
  repeat' split
  all_goals simp

@[simp] theorem ground_slotWritten (s : State) (id : Nat) (r : SlotRecord) (c : Bool) :
    ground (s.slotWritten id r c) = ground s := by
  simp only [State.slotWritten]
  split <;> rfl

@[simp] theorem ground_slotFails (s : State) (id : Nat) (c : Bool) : ground (s.slotFails id c) = ground s := by
  simp only [State.slotFails]
  split <;> rfl

@[simp] theorem ground_workFlashDone (s : State) (ok : Bool) (d : List Byte) :
    ground (s.workFlashDone ok d) = ground s := by
  unfold State.workFlashDone
  repeat' split
  all_goals simp

@[simp] theorem ground_writeSlot (s : State) (o : Order) (r : SlotRecord) (c : Bool) :
    ground (s.writeSlot o r c) = ground s := by
  simp [State.writeSlot]

@[simp] theorem ground_bootManifest (s : State) (r : SlotRecord) (k : Option (ReportKind × Bool)) (b : List Byte) :
    ground (s.bootManifest r k b) = ground s := by
  simp [State.bootManifest]

@[simp] theorem ground_recordIn (s : State) (d : List Byte) : ground (s.recordIn d) = ground s := by
  simp only [State.recordIn]
  repeat' split
  all_goals simp

@[simp] theorem ground_checkEnds (s : State) (r : SlotRecord) (k : Option (ReportKind × Bool)) (b : List Byte) :
    ground (s.checkEnds r k b) = ground s := by
  simp only [State.checkEnds]
  split <;> rfl

@[simp] theorem ground_bootFlashDone (s : State) (ok : Bool) (d : List Byte) :
    ground (s.bootFlashDone ok d) = ground s := by
  unfold State.bootFlashDone
  repeat' split
  all_goals simp

@[simp] theorem ground_readPiece (s : State) (w : ReadWork) : ground (s.readPiece w) = ground s := by
  simp [State.readPiece]

@[simp] theorem ground_readFlashIn (s : State) (d : List Byte) : ground (s.readFlashIn d) = ground s := by
  unfold State.readFlashIn
  repeat' split
  all_goals simp

@[simp] theorem ground_readFlashWritten (s : State) (o : Order) : ground (s.readFlashWritten o) = ground s := by
  unfold State.readFlashWritten
  repeat' split
  all_goals simp

@[simp] theorem ground_takeDone (s : State) (p : Nat) (b : List Byte) : ground (s.takeDone p b) = ground s := by
  simp only [State.takeDone]
  split <;> simp

@[simp] theorem ground_takenWritten (s : State) : ground s.takenWritten = ground s := by
  unfold State.takenWritten
  split <;> simp

@[simp] theorem ground_bulkFails (s : State) (id : Nat) : ground (s.bulkFails id) = ground s := by
  simp only [State.bulkFails]
  repeat' split
  all_goals simp

@[simp] theorem ground_accessFails (s : State) (a : Access) : ground (s.accessFails a) = ground s := by
  unfold State.accessFails
  split <;> simp

/-! ## Profiles, flows, addresses and peers (chapters 2, 3, 7 and 8) -/

@[simp] theorem ground_membership (s : State) (p : Option ProfIx) : ground (s.membership p) = ground s := by
  cases p <;> rfl

@[simp] theorem ground_spentChange (s : State) (p : Option ProfIx) : ground (s.spentChange p) = ground s := by
  cases p <;> rfl

@[simp] theorem ground_profileChanged (s : State) (p q : Option ProfIx) : ground (s.profileChanged p q) = ground s := by
  unfold State.profileChanged
  split <;> simp

@[simp] theorem ground_evaluate (s : State) (t : Trigger) : ground (s.evaluate t) = ground s := by
  obtain ⟨l, h, -⟩ := moves_spec t (s.profile t.profile) (s.condHolds t (s.profile t.profile))
    (s.profile t.profile).current Config.maxMoves (s.profile t.profile).current s
  simp only [State.evaluate]
  split <;> simp [h]

@[simp] theorem ground_reply (s : State) (p : ProfIx) (r : Option Reply) : ground (s.reply p r) = ground s := by
  cases r <;> rfl

@[simp] theorem ground_toInitial (s : State) (p : ProfIx) (x : Profile) (c : Cause) :
    ground (s.toInitial p x c) = ground s := by
  simp only [State.toInitial]
  split <;> rfl

@[simp] theorem ground_thenEvaluate (s : State) (o : Order) (p : ProfIx) (c : Cause) (b a : List Byte) :
    ground (s.thenEvaluate o p c b a) = ground s := by
  unfold State.thenEvaluate
  split <;> rfl

@[simp] theorem ground_setPause (s : State) (o : Order) (p : ProfIx) (f : Bool) (c : Cause) :
    ground (s.setPause o p f c) = ground s := by
  simp only [State.setPause]
  split <;> simp

@[simp] theorem ground_learn (s : State) (m : Mac) (p : PortId) : ground (s.learn m p) = ground s := by
  unfold State.learn
  split <;> rfl

@[simp] theorem ground_meshOff (s : State) : ground s.meshOff = ground s := by
  unfold State.meshOff
  generalize List.finRange 7 = l
  induction l generalizing s with
  | nil => rfl
  | cons k l ih =>
    rw [List.foldl_cons, ih]
    repeat' split
    all_goals rfl

@[simp] theorem ground_writeNode (s : State) (n : Node) (m : Mac) (t : Nat) (e : Bool) :
    ground (s.writeNode n m t e) = ground s := by
  simp only [State.writeNode]
  split <;> simp

@[simp] theorem ground_deliver (s : State) (m : Msg) : ground (s.deliver m) = ground s := by
  unfold State.deliver
  repeat' split
  all_goals rfl

@[simp] theorem ground_validMessage (s : State) (k : Fin 7) (q : Peer) (f : List Byte) :
    ground (s.validMessage k q f) = ground s := by
  simp only [State.validMessage]
  split <;> simp

@[simp] theorem ground_meshFrame (s : State) (f : List Byte) : ground (s.meshFrame f) = ground s := by
  simp only [State.meshFrame]
  repeat' split
  all_goals simp

@[simp] theorem ground_endForced (s : State) (i : StaIx) (c : Status) (d : Byte) :
    ground (s.endForced i c d) = ground s := by
  unfold State.endForced
  repeat' split
  all_goals rfl

@[simp] theorem ground_tick (s : State) : ground s.tick = ground s := by
  simp only [State.tick]
  repeat' split
  all_goals rfl

end Sys2Proof.Machine.AirtimeScheduling
end

section
/-!
PROOFS. What an operation keeps of the ranges of the scheduler, said as a relation of two states; and what the shared
operations on ports, records, queues and messages keep (R38, R39, R71, R128, R141).
-/

namespace Sys2Proof.Machine.AirtimeScheduling

open Sys2Proof Sys2Proof.Machine Sys2Proof.Machine.FlowClassification

/-! ## The relation -/

/-- What the ranges ask of a record: no frame held for the station is longer than 2048 bytes, and neither is the message
built from the body its offer repeats (R141). -/
structure RecordOk (r : Station) : Prop where
  held : ∀ l, r.held = some l → ∀ h ∈ l, h.frame.length ≤ 2048
  offer : ∀ h, r.handoff = some h → h.body.length ≤ maxBody

theorem recordOk_of_none {r : Station} (hh : r.held = none) (ho : r.handoff = none) : RecordOk r :=
  ⟨fun l hl => absurd (hh.symm.trans hl) (Option.some_ne_none l).symm,
    fun g hg => absurd (ho.symm.trans hg) (Option.some_ne_none g).symm⟩

theorem roundInv_iff (s : State) : RoundInv s ↔ (∀ p, RoundOk p (s.port p)) ∧ ∀ i, RecordOk (s.sta i) :=
  ⟨fun h => ⟨h.port, fun i => ⟨h.held i, h.offer i⟩⟩, fun h => ⟨h.1, fun i => (h.2 i).held, fun i => (h.2 i).offer⟩⟩

theorem recordOf_roundInv {s : State} (h : RoundInv s) (i : StaIx) : RecordOk (s.sta i) := ((roundInv_iff s).1 h).2 i

/-- From `s` to `t` the ranges of the scheduler are kept, those of the buckets and those of the deficits each by
itself. -/
structure Keeps (s t : State) : Prop where
  bucket : BucketInv s → BucketInv t
  round : RoundInv s → RoundInv t

theorem Keeps.refl (s : State) : Keeps s s := ⟨id, id⟩

theorem Keeps.trans {s t u : State} (h : Keeps s t) (g : Keeps t u) : Keeps s u :=
  ⟨g.bucket ∘ h.bucket, g.round ∘ h.round⟩

/-- What each port and each record keeps, the state keeps. -/
theorem keeps_of_parts {s t : State} (hb : ∀ p, BucketOk (s.port p) → BucketOk (t.port p))
    (hp : ∀ p, RoundOk p (s.port p) → RoundOk p (t.port p)) (hr : ∀ i, RecordOk (s.sta i) → RecordOk (t.sta i)) :
    Keeps s t := by
  refine ⟨fun h p => hb p (h p), fun h => (roundInv_iff t).2 ?_⟩
  obtain ⟨hport, hrec⟩ := (roundInv_iff s).1 h
  exact ⟨fun p => hp p (hport p), fun i => hr i (hrec i)⟩

theorem keeps_of_ground {s t : State} (h : ground t = ground s) : Keeps s t := by
  obtain ⟨hports, hrecs⟩ := Prod.mk.inj h
  have hport : ∀ p, t.port p = s.port p := fun p => by rw [State.port, State.port, hports]
  have hsta : ∀ i, t.sta i = s.sta i := fun i => by rw [State.sta, State.sta, hrecs]
  exact keeps_of_parts (fun p => by rw [hport p]; exact id) (fun p => by rw [hport p]; exact id)
    fun i => by rw [hsta i]; exact id

/-- An operation that leaves the ports and the records keeps what is kept so far. -/
theorem Keeps.same {s t u : State} (h : Keeps s t) (e : ground u = ground t) : Keeps s u := h.trans (keeps_of_ground e)

theorem Keeps.ite {s t u : State} {c : Prop} [Decidable c] (ht : Keeps s t) (hu : Keeps s u) :
    Keeps s (if c then t else u) := by
  split
  · exact ht
  · exact hu

/-! ## Writes of a record -/

theorem Keeps.setSta {s t : State} {i : StaIx} {r : Station} (h : Keeps s t) (hr : RoundInv s → RecordOk r) :
    Keeps s (t.setSta i r) := by
  refine ⟨h.bucket, fun hs => (roundInv_iff _).2 ⟨(h.round hs).port, fun j => ?_⟩⟩
  rw [State.setSta_sta]
  split
  · exact hr hs
  · exact recordOf_roundInv (h.round hs) j

/-- A write that leaves the hold list and the handoff sub-record of a record. -/
theorem Keeps.touchSta {s t : State} {i : StaIx} {r : Station} (h : Keeps s t) (hh : r.held = (t.sta i).held)
    (ho : r.handoff = (t.sta i).handoff) : Keeps s (t.setSta i r) :=
  h.setSta fun hs => by
    have hi := recordOf_roundInv (h.round hs) i
    exact ⟨hh ▸ hi.held, ho ▸ hi.offer⟩

/-- A write that leaves the hold list of a record and drops its sub-record, or changes it without its body. -/
theorem Keeps.setHandoff {s t : State} {i : StaIx} {r : Station} (h : Keeps s t) (hh : r.held = (t.sta i).held)
    (ho : RoundInv s → ∀ g, r.handoff = some g → g.body.length ≤ maxBody) : Keeps s (t.setSta i r) :=
  h.setSta fun hs => ⟨hh ▸ (recordOf_roundInv (h.round hs) i).held, ho hs⟩

/-- A change of every record that leaves the hold lists and the handoff sub-records. -/
theorem keeps_of_map {s t : State} {f : Station → Station} (hf : ∀ r, (f r).held = r.held ∧ (f r).handoff = r.handoff)
    (hports : t.frp.ports = s.frp.ports) (hrecs : t.stt.recs = s.stt.recs.map f) : Keeps s t := by
  have hport : ∀ p, t.port p = s.port p := fun p => by rw [State.port, State.port, hports]
  have hsta : ∀ i, t.sta i = f (s.sta i) := fun i => by rw [State.sta, State.sta, hrecs, get_map]
  refine keeps_of_parts (fun p => by rw [hport p]; exact id) (fun p => by rw [hport p]; exact id) fun i hi => ?_
  obtain ⟨hheld, hoffer⟩ := hf (s.sta i)
  rw [hsta i]
  exact ⟨by rw [hheld]; exact hi.held, by rw [hoffer]; exact hi.offer⟩

theorem Keeps.touchGame {s t : State} (h : Keeps s t) (k : Option StaIx) : Keeps s (t.touchGame k) := by
  cases k with
  | none => exact h
  | some i =>
    simp only [State.touchGame]
    split
    · exact h
    · exact h.touchSta rfl rfl

theorem Keeps.addBytes {s t : State} (h : Keeps s t) (i : StaIx) (n : Nat) : Keeps s (t.addBytes i n) := by
  simp only [State.addBytes]
  split
  · exact h
  · exact h.touchSta rfl rfl

theorem Keeps.recomputeGate {s t : State} (h : Keeps s t) (i : StaIx) : Keeps s (t.recomputeGate i) :=
  h.touchSta rfl rfl

theorem Keeps.recomputeSpent {s t : State} (h : Keeps s t) (i : StaIx) : Keeps s (t.recomputeSpent i) := by
  simp only [State.recomputeSpent]
  split
  · exact h
  · have hset : Keeps s (t.setSta i { t.sta i with
        spent := t.spentNow (t.sta i), gate := t.gateOf (t.sta i).profile (t.spentNow (t.sta i)) }) :=
      h.touchSta rfl rfl
    split <;> exact hset.same (by simp)

/-- A sweep over the records keeps what its operation keeps. -/
theorem Keeps.eachSta {s t : State} {p : Station → Bool} {f : State → StaIx → State} (h : Keeps s t)
    (hf : ∀ u i, Keeps s u → Keeps s (f u i)) : Keeps s (t.eachSta p f) :=
  State.eachSta_induct (P := Keeps s) (fun u i hu _ => hf u i hu) t h

/-- A fold of an operation keeps what the operation keeps. -/
theorem Keeps.foldl {α : Type} {s t : State} {f : State → α → State} (h : Keeps s t) (l : List α)
    (hf : ∀ u a, Keeps s u → Keeps s (f u a)) : Keeps s (l.foldl f t) := by
  induction l generalizing t with
  | nil => exact h
  | cons a l ih => exact ih (hf t a h)

theorem Keeps.recomputeAllSpent {s t : State} (h : Keeps s t) : Keeps s t.recomputeAllSpent :=
  h.eachSta fun _ i hu => hu.recomputeSpent i

theorem Keeps.examineArms {s t : State} (h : Keeps s t) (i : StaIx) : Keeps s (t.examineArms i) := by
  simp only [State.examineArms]
  split
  · exact h
  · exact h.touchSta rfl rfl

theorem Keeps.armStation {s t : State} (h : Keeps s t) (i : StaIx) (g : Byte) (n : Nat) :
    Keeps s (t.armStation i g n) := by
  simp only [State.armStation]
  split
  · exact h.examineArms i
  · exact (h.examineArms i).touchSta rfl rfl

/-! ## Writes of a port -/

theorem Keeps.setPort {s t : State} {p : PortId} {x : Port} (h : Keeps s t)
    (hb : BucketOk (t.port p) → BucketOk x) (hr : RoundInv s → RoundOk p (t.port p) → RoundOk p x) :
    Keeps s (t.setPort p x) := by
  refine ⟨fun hs q => ?_, fun hs => (roundInv_iff _).2 ⟨fun q => ?_, fun i => recordOf_roundInv (h.round hs) i⟩⟩
  · rw [State.setPort_port]
    split
    · exact hb (h.bucket hs p)
    · exact h.bucket hs q
  · rw [State.setPort_port]
    split
    · next hq => exact hq ▸ hr hs ((h.round hs).port p)
    · exact (h.round hs).port q

theorem Keeps.count {s t : State} (h : Keeps s t) (p : PortId) (c : TClass) (k : Counter) : Keeps s (t.count p c k) :=
  h.setPort (fun hb => bucketOk_congr hb rfl rfl rfl) fun _ hr => roundOk_congr hr rfl rfl hr.taken rfl rfl rfl

theorem Keeps.setIngress {s t : State} {p : PortId} {x : Option Ingress} (h : Keeps s t)
    (hx : RoundInv s → ∀ y, x = some y → y.frame.length ≤ 2048) : Keeps s (t.setIngress p x) :=
  h.setPort (fun hb => bucketOk_congr hb rfl rfl rfl) fun hs hr => roundOk_congr hr rfl rfl (hx hs) rfl rfl rfl

theorem Keeps.endIngress {s t : State} {p : PortId} (h : Keeps s t) : Keeps s (t.setIngress p none) :=
  h.setIngress fun _ _ hy => nomatch hy

theorem Keeps.purgePort {s t : State} (h : Keeps s t) (p : PortId) (d : Copy → Bool) : Keeps s (t.purgePort p d) :=
  have hset : Keeps s (t.setPort p ((t.port p).purge d).1) :=
    h.setPort (fun hb => bucketOk_congr hb rfl rfl rfl) fun _ => roundOk_purge d
  hset.same (ground_returnBuffers _ _)

theorem Keeps.purgeStation {s t : State} (h : Keeps s t) (i : StaIx) : Keeps s (t.purgeStation i) :=
  h.foldl PortId.all fun _ p hu => hu.purgePort p _

/-! ## Queues and hold lists (R38, R39) -/

theorem Keeps.reportEnqueue {s t : State} (h : Keeps s t) (n : Nat) (c : TClass) (source station : Option StaIx)
    (p : Option PortId) (l : Bool) : Keeps s (t.reportEnqueue n c source station p l) := by
  have game : Keeps s (if c = .game then
      State.touchGame (State.touchGame { t with flc := { t.flc with lastGame := some t.now } } source) station
    else t) := by
    split
    · have hnow : Keeps s { t with flc := { t.flc with lastGame := some t.now } } := h.same rfl
      exact (hnow.touchGame source).touchGame station
    · exact h
  simp only [State.reportEnqueue]
  split
  · split
    · exact game
    · exact game.addBytes _ n
  · exact game

/-- A copy of a frame of at most 2048 bytes joins a queue. -/
theorem Keeps.join {s t : State} {p : PortId} {f : Offered} (h : Keeps s t)
    (hf : RoundInv s → f.frame.length ≤ 2048) : Keeps s (t.join p f) := by
  refine Keeps.reportEnqueue ?_ _ _ _ _ _ _
  exact h.setPort (fun hb => bucketOk_congr hb rfl rfl rfl) fun hs hr =>
    roundOk_append f.cls _ hr (copyCost_le _ hr.overhead (hf hs))

theorem Keeps.enqueueNew {s t : State} {p : PortId} {f : Offered} (h : Keeps s t)
    (hf : RoundInv s → f.frame.length ≤ 2048) : Keeps s (t.enqueueNew p f).1 := by
  rcases t.enqueueNew_cases p f with e | e | ⟨-, -, e⟩ <;> rw [e]
  · exact h.count _ _ _
  · exact h.count _ _ _
  · exact (h.same (ground_takeBuffer t)).join hf

theorem Keeps.enqueueHeld {s t : State} {p : PortId} {f : Offered} (h : Keeps s t)
    (hf : RoundInv s → f.frame.length ≤ 2048) : Keeps s (t.enqueueHeld p f).1 := by
  unfold State.enqueueHeld
  split
  · exact (h.count _ _ _).same (ground_returnBuffers _ _)
  · exact h.join hf

theorem Keeps.releaseHeld {s t : State} {p : PortId} {i : Option StaIx} {n : Option Node} {l : List Held}
    (h : Keeps s t) (hl : RoundInv s → ∀ x ∈ l, x.frame.length ≤ 2048) : Keeps s (State.releaseHeld p i n l t).1 := by
  induction l generalizing t with
  | nil => exact h
  | cons x l ih =>
    exact ih (h.enqueueHeld fun hs => hl hs x List.mem_cons_self) fun hs y hy => hl hs y (List.mem_cons_of_mem _ hy)

/-- The frames held for a station are at most 2048 bytes long. -/
theorem held_length {s : State} (hs : RoundInv s) (i : StaIx) :
    ∀ x ∈ (s.sta i).held.getD [], x.frame.length ≤ 2048 := by
  cases hl : (s.sta i).held with
  | none => simp
  | some l => exact hs.held i l hl

theorem Keeps.holdFrame {s t : State} {i : StaIx} {x : Held} (h : Keeps s t)
    (hx : RoundInv s → x.frame.length ≤ 2048) : Keeps s (t.holdFrame i x) := by
  simp only [State.holdFrame]
  split
  · exact h.count _ _ _
  · split
    · exact h.count _ _ _
    · refine (h.same (ground_takeBuffer t)).setSta fun hs => ⟨?_, (h.round hs).offer i⟩
      rintro l ⟨⟩ y hy
      rcases List.mem_append.1 hy with hy | hy
      · exact held_length (h.round hs) i y hy
      · rw [List.mem_singleton.1 hy]
        exact hx hs

theorem Keeps.freeStation {s t : State} (h : Keeps s t) (i : StaIx) : Keeps s (t.freeStation i) := by
  have hleave : ∀ u r, ground (State.leaveProfile u r) = ground u := fun u r => by
    unfold State.leaveProfile
    split <;> simp
  refine Keeps.setSta ?_ fun _ => recordOk_of_none rfl rfl
  exact (h.purgeStation i).same (by simp [hleave])

/-! ## Messages (R128) -/

/-- The frame of a message whose body has at most 2026 bytes has at most 2048. -/
theorem length_messageFrame {s : State} {dest : Mac} {receiver kind : Nat} {body : List Byte}
    (h : body.length ≤ maxBody) : (s.messageFrame dest receiver kind body).length ≤ 2048 := by
  unfold maxBody at h
  simp only [State.messageFrame]
  split
  · simp
  · simp only [macBytes, List.length_append, length_be, List.length_cons, List.length_nil]
    omega

theorem Keeps.sendFrame {s t : State} {n : Option Node} {k : Nat} {f : List Byte} (h : Keeps s t)
    (hf : RoundInv s → f.length ≤ 2048) : Keeps s (t.sendFrame n k f).1 :=
  Keeps.enqueueNew (h.same rfl) hf

theorem Keeps.send {s t : State} {n : Node} {k : Nat} {b : List Byte} (h : Keeps s t)
    (hb : RoundInv s → b.length ≤ maxBody) : Keeps s (t.send n k b).1 := by
  unfold State.send
  split
  · split
    · exact h.sendFrame fun hs => length_messageFrame (hb hs)
    · exact h
  · exact h

theorem Keeps.sendTo {s t : State} {n : Node} {k : Nat} {b : List Byte} (h : Keeps s t)
    (hb : RoundInv s → b.length ≤ maxBody) : Keeps s (t.sendTo n k b) := h.send hb

/-- A message whose body is short whatever the state. -/
theorem Keeps.sendShort {s t : State} {n : Node} {k : Nat} {b : List Byte} (h : Keeps s t)
    (hb : b.length ≤ maxBody) : Keeps s (t.sendTo n k b) := h.send fun _ => hb

theorem Keeps.sendBeacon {s t : State} {b : List Byte} (h : Keeps s t) (hb : b.length ≤ maxBody) :
    Keeps s (t.sendBeacon b) := by
  unfold State.sendBeacon
  split
  · exact h.sendFrame fun _ => length_messageFrame hb
  · exact h

/-! ## The bodies of the messages (Table 11-5) -/

theorem length_idMacBody (id : HandoffId) (m : Mac) : (idMacBody id m).length = 10 := by
  simp [idMacBody, HandoffId.beBytes, macBytes]

/-- A body that is a handoff id and a MAC fits a frame. -/
theorem idMacBody_le (id : HandoffId) (m : Mac) : (idMacBody id m).length ≤ maxBody := by
  rw [length_idMacBody]
  decide

theorem length_flatten_const {α : Type} {f : α → List Byte} {n : Nat} (l : List α) (h : ∀ a, (f a).length = n) :
    (l.map f).flatten.length = n * l.length := by
  induction l with
  | nil => rfl
  | cons a l ih =>
    simp only [List.map_cons, List.flatten_cons, List.length_append, h, ih, List.length_cons, Nat.mul_succ]
    omega

/-- An OFFER carries at most 4 arm entries and 16 flows (R141). -/
theorem offerBody_le (s : State) (i : StaIx) (id : HandoffId) : (s.offerBody i id).length ≤ maxBody := by
  have harms : ∀ v : Vector (Option Arm) 4, (v.toList.filterMap fun e => e).length ≤ 4 := fun v =>
    Nat.le_trans (List.length_filterMap_le _ _) (Nat.le_of_eq v.length_toList)
  have hflows : (s.offeredFlows i).length ≤ 16 := List.length_take_le _ _
  have ha := harms (liveArms s.now (s.sta i).arms)
  unfold State.offerBody maxBody
  simp only [List.length_append, length_idMacBody, length_be, List.length_cons, List.length_nil]
  rw [length_flatten_const (n := 5) _ (fun a => by simp), length_flatten_const (n := 40) _ (fun f => by simp)]
  omega

end Sys2Proof.Machine.AirtimeScheduling
end

section
/-!
PROOFS. What the operations of the handoff, of the records, of the match list and of the stager keep of the ranges of
the scheduler.
-/

namespace Sys2Proof.Machine.AirtimeScheduling

open Sys2Proof Sys2Proof.Machine Sys2Proof.Machine.FlowClassification

/-! ## Records (chapters 5 and 6) -/

theorem Keeps.enter {s t : State} {i : StaIx} {r : Station} (h : Keeps s t) (hr : RecordOk r) :
    Keeps s (t.enter i r) := (h.same (ground_dropAddresses t _)).setSta fun _ => hr

theorem Keeps.enrol {s t : State} {i : StaIx} {r : Station} (h : Keeps s t) (hr : RecordOk r) :
    Keeps s (t.enrol i r) :=
  (((h.enter hr).recomputeSpent i).recomputeGate i).same (ground_membership _ _)

/-- A bind keeps the hold list and the body of the sub-record (R145). -/
theorem Keeps.bind {s t : State} (h : Keeps s t) (i : StaIx) (radio : Radio) (p : Option ProfIx) (rate : Nat) :
    Keeps s (t.bind i radio p rate) := by
  have hset : Keeps s (t.setSta i ((t.sta i).bound radio p rate t.now)) := by
    refine h.setHandoff rfl fun hs g hg => ?_
    obtain ⟨g', hg', rfl⟩ := Option.map_eq_some_iff.1 hg
    exact (h.round hs).offer i g' hg'
  have hgate := ((hset.same (ground_membership _ ((t.sta i).bound radio p rate t.now).profile)).recomputeSpent
    i).recomputeGate i
  simp only [State.bind]
  split
  · exact (hgate.sendShort (idMacBody_le _ _)).same (ground_giveReport _ _ _ _)
  · exact hgate

theorem Keeps.admission {s t : State} (h : Keeps s t) (o : Order) (m : Mac) (radio : Radio) (p : Option ProfIx)
    (rate used : Nat) : Keeps s (t.admission o m radio p rate used) := by
  simp only [State.admission]
  split
  · split
    · exact (h.bind _ radio p rate).same (ground_accept _ _ _)
    · exact h.same (ground_refuse _ _ _)
    · exact h.same (ground_refuse _ _ _)
    all_goals exact h.same (ground_finish _ _ _ _ _)
  · split
    · exact h.same (ground_refuse _ _ _)
    · split
      · exact (h.enrol (recordOk_of_none rfl rfl)).same (ground_accept _ _ _)
      · exact h.same (ground_refuse _ _ _)

theorem Keeps.addBonus {s t : State} (h : Keeps s t) (n : Nat) (i : StaIx) : Keeps s (State.addBonus n t i) := by
  simp only [State.addBonus]
  split
  · exact h
  · refine Keeps.recomputeSpent ?_ i
    exact h.touchSta rfl rfl

theorem Keeps.grantStation {s t : State} (h : Keeps s t) (o : Order) (i : StaIx) (n : Nat) :
    Keeps s (t.grantStation o i n) := by
  have hrefuse : ∀ c, Keeps s (t.refuse o c) := fun c => h.same (ground_refuse _ _ _)
  have hgrant : ∀ p l, Keeps s (((State.addBonus n t i).triggerFor p .grant).accept o l) := fun p l =>
    (h.addBonus n i).same rfl
  simp only [State.grantStation]
  split
  · exact hrefuse _
  · exact hrefuse _
  · exact hrefuse _
  · exact hrefuse _
  · exact hrefuse _
  · exact hrefuse _
  all_goals
    split
    · exact hrefuse _
    · exact Keeps.ite (hrefuse _) (Keeps.ite (hrefuse _) (hgrant _ _))

theorem Keeps.grantProfile {s t : State} (h : Keeps s t) (o : Order) (p : ProfIx) (n : Nat) :
    Keeps s (t.grantProfile o p n) := by
  simp only [State.grantProfile]
  split
  · exact h.same (ground_refuse _ _ _)
  · split
    · exact h.same (ground_refuse _ _ _)
    · exact ((h.eachSta (p := Station.grantable p) fun _ i hu => hu.addBonus n i).same (ground_triggerFor _ _ _)).same
        (ground_accept _ _ _)

/-! ## The match list (chapter 3) -/

theorem Keeps.examineFor {s t : State} (h : Keeps s t) (q : Search) (r : Rule) : Keeps s (t.examineFor q r) := by
  unfold State.examineFor
  split
  · exact h
  · split
    · split
      · exact h.examineArms _
      · exact h
    · exact h

theorem Keeps.ruleHit {s t : State} (h : Keeps s t) (q : Search) (i : Fin 64) (r : Rule) :
    Keeps s (t.ruleHit q i r) := by
  have hhit : ∀ b l, Keeps s (if r.report = true then
      State.giveReport { t with flc := { t.flc with rules := b } } .ruleHit i.val l
    else { t with flc := { t.flc with rules := b } }) := fun b l => by
    split
    · exact h.same rfl
    · exact h.same rfl
  simp only [State.ruleHit]
  split
  · split
    · exact (hhit _ _).armStation _ _ _
    · exact hhit _ _
  · exact hhit _ _

theorem Keeps.searchFrom {s t : State} (h : Keeps s t) (q : Search) (l : List (Fin 64)) :
    Keeps s (State.searchFrom q l t).1 := by
  induction l generalizing t with
  | nil => exact h
  | cons i l ih =>
    have hexamine := h.examineFor q (t.flc.rules.get i)
    have hhit := hexamine.ruleHit q i (t.flc.rules.get i)
    simp only [State.searchFrom]
    split
    · split
      · split
        · exact hhit
        · exact hhit
        · exact ih hhit
      · exact ih hexamine
    · exact ih h

theorem Keeps.runMatchList {s t : State} {p : PortId} {x : Ingress} (h : Keeps s t)
    (hx : RoundInv s → x.frame.length ≤ 2048) (ip : IpInfo) (b : Bool) : Keeps s (t.runMatchList p x ip b) := by
  have hsearch : ∀ q, Keeps s (t.search q).1 := fun q => h.searchFrom q _
  simp only [State.runMatchList]
  split
  · exact (hsearch _).endIngress
  · refine Keeps.setIngress (Keeps.ite ?_ (hsearch _)) fun hs y hy => ?_
    · exact (hsearch _).same (ground_placeFlow _ _)
    · cases hy
      exact hx hs

/-! ## Moves (chapter 9) -/

/-- A record found by a handoff id holds the sub-record found. -/
theorem findHandoff_some {s : State} {id : HandoffId} {p : StaState → Bool} {peer : Option Node} {i : StaIx}
    {h : Handoff} (e : s.findHandoff id p peer = some (i, h)) : (s.sta i).handoff = some h := by
  obtain ⟨j, -, hj⟩ := List.exists_of_findSome?_eq_some e
  dsimp only at hj
  split at hj
  · next g hg =>
    split at hj
    · cases hj
      exact hg
    · cases hj
  · cases hj

/-- The offer built when an offer begins is one its record may hold and its message may carry. -/
theorem Keeps.beginOffer {s t : State} (h : Keeps s t) (i : StaIx) (peer : Node) : Keeps s (t.beginOffer i peer) := by
  have hbody := offerBody_le t.newHandoffId.1 i t.newHandoffId.2
  have hid : Keeps s t.newHandoffId.1 := h.same (ground_newHandoffId t)
  refine Keeps.sendShort ?_ hbody
  refine hid.setHandoff rfl fun _ g hg => ?_
  cases hg
  exact hbody

theorem Keeps.closeQuery {s t : State} (h : Keeps s t) (i : StaIx) : Keeps s (t.closeQuery i) := by
  simp only [State.closeQuery]
  split
  · exact h
  · split
    · exact h.beginOffer i _
    · exact h.touchSta rfl rfl

theorem Keeps.startQuery {s t : State} (h : Keeps s t) (i : StaIx) : Keeps s (t.startQuery i) := by
  have hwatch : ∀ q, Keeps s (t.setSta i { t.sta i with state := .watched, runOn := 0, query := q }) := fun q =>
    h.touchSta rfl rfl
  simp only [State.startQuery]
  split
  · exact (hwatch _).closeQuery i
  · exact (hwatch _).foldl _ fun _ n hu => hu.sendShort (by simp [macBytes, maxBody])

theorem Keeps.checkStation {s t : State} (h : Keeps s t) (i : StaIx) : Keeps s (t.checkStation i) := by
  simp only [State.checkStation]
  split
  · next avg _ _ _ =>
    have hset : Keeps s (t.setSta i ((t.sta i).checked t.hoc.roaming avg)) := h.touchSta rfl rfl
    split
    · exact hset.startQuery i
    · exact hset
  · exact h

theorem Keeps.offerFails {s t : State} (h : Keeps s t) (i : StaIx) (g : Handoff) (reason : Byte) (late : Bool) :
    Keeps s (t.offerFails i g reason late) := by
  have hend : Keeps s (if (t.sta i).departed = true then t.freeStation i
      else t.setSta i { (t.sta i).backOff t.now with state := .active, handoff := none, runOn := 0 }) := by
    split
    · exact h.freeStation i
    · exact h.setHandoff rfl nofun
  have hreport := fun l => hend.same (ground_giveReport _ .handoffFailed i.val l)
  simp only [State.offerFails]
  split
  · exact (hreport _).same (ground_endForced _ _ _ _)
  · exact (hreport _).same (ground_endForced _ _ _ _)

theorem Keeps.reserve {s t : State} (h : Keeps s t) (i : StaIx) (origin : Node) (b : List Byte) :
    Keeps s (t.reserve i origin b) := by
  have hrec : RecordOk (t.reservation origin b) := by
    refine ⟨nofun, fun g hg => ?_⟩
    cases hg
    exact Nat.zero_le _
  refine Keeps.recomputeGate (Keeps.recomputeSpent ?_ i) i
  exact (h.enter hrec).foldl _ fun _ _ hu => hu.same (ground_placeFlow _ _)

/-- The hold list of a move that completes goes to MESH, and the record holds neither list nor sub-record (R147). -/
theorem Keeps.completeMove {s t : State} (h : Keeps s t) (i : StaIx) (g : Handoff) :
    Keeps s (t.completeMove i g) := by
  have hleft : ∀ f, Keeps s (t.setSta i { t.sta i with
      state := .left, handoff := none, query := none, held := none, forward := f }) := fun f =>
    h.setSta fun _ => recordOk_of_none rfl rfl
  have hpurge := fun f => ((((hleft f).same (ground_dropFlows _ fun x => x.station == some i)).same
    (ground_membership _ (t.sta i).profile)).purgeStation i)
  have hrelease := fun f => (hpurge f).releaseHeld (p := .mesh) (i := none) (n := some g.peer)
    fun hs => held_length (h.round hs) i
  simp only [State.completeMove]
  exact ((hrelease _).sendShort (by simp [settleBody, length_idMacBody, maxBody])).same (ground_giveReport _ _ _ _)

theorem Keeps.returnStation {s t : State} (h : Keeps s t) (i : StaIx) (g : Handoff) (reason : Byte) :
    Keeps s (t.returnStation i g reason) := by
  have hback : Keeps s (t.setSta i { (t.sta i).backOff t.now with
      state := .active, handoff := none, held := none, runOn := 0 }) := h.setSta fun _ => recordOk_of_none rfl rfl
  simp only [State.returnStation]
  refine Keeps.same (?_ : Keeps s _) (ground_giveReport _ _ _ _)
  split
  · exact h.freeStation i
  · exact hback.releaseHeld fun hs => held_length (h.round hs) i

theorem Keeps.reportTaken {s t : State} (h : Keeps s t) (i : StaIx) (q : Query) (m : Msg) :
    Keeps s (t.reportTaken i q m) := by
  have hfill : ∀ x, Keeps s (t.setSta i { t.sta i with query := x }) := fun x => h.touchSta rfl rfl
  simp only [State.reportTaken]
  split
  · split
    · exact (hfill _).closeQuery i
    · exact hfill _
  · exact h

section SubRecord
variable {s t : State} {i : StaIx} {g : Handoff}

/-- A sub-record found in a record of a state so reached carries a body a message may repeat. -/
theorem Keeps.body_le (h : Keeps s t) (hg : (t.sta i).handoff = some g) (hs : RoundInv s) :
    g.body.length ≤ maxBody := (h.round hs).offer i g hg

/-- A sub-record changed without its body. -/
theorem Keeps.changeHandoff {g' : Handoff} {r : Station} (h : Keeps s t) (hg : (t.sta i).handoff = some g)
    (hh : r.held = (t.sta i).held) (hr : r.handoff = some g') (hb : g'.body = g.body) : Keeps s (t.setSta i r) := by
  refine h.setHandoff hh fun hs x hx => ?_
  cases hr.symm.trans hx
  rw [hb]
  exact h.body_le hg hs

theorem Keeps.beginMove (h : Keeps s t) (hg : (t.sta i).handoff = some g) : Keeps s (t.beginMove i g) := by
  have hset : ∀ d, Keeps s (t.setSta i { t.sta i with
      state := .moving, handoff := some { g with tries := 0, deadline := d }, held := some [] }) := fun d => by
    refine h.setSta fun hs => ⟨?_, ?_⟩
    · rintro l ⟨⟩ y hy
      cases hy
    · rintro x ⟨⟩
      change g.body.length ≤ maxBody
      exact h.body_le hg hs
  exact ((hset _).same (ground_giveReport _ _ _ _)).same (ground_endForced _ _ _ _)

theorem Keeps.offerRetry (h : Keeps s t) (hg : (t.sta i).handoff = some g) : Keeps s (t.offerRetry i g) := by
  unfold State.offerRetry
  split
  · refine Keeps.sendTo ?_ (h.body_le hg)
    exact h.changeHandoff hg rfl rfl rfl
  · exact h.offerFails i g _ _

theorem Keeps.withdrawRetry (h : Keeps s t) (hg : (t.sta i).handoff = some g) : Keeps s (t.withdrawRetry i g) := by
  unfold State.withdrawRetry
  split
  · refine Keeps.sendShort ?_ (idMacBody_le _ _)
    exact h.changeHandoff hg rfl rfl rfl
  · exact h.returnStation i g _

theorem Keeps.confirmRetry (h : Keeps s t) (hg : (t.sta i).handoff = some g) : Keeps s (t.confirmRetry i g) := by
  unfold State.confirmRetry
  split
  · refine Keeps.sendShort ?_ (idMacBody_le _ _)
    exact h.changeHandoff hg rfl rfl rfl
  · exact h.changeHandoff hg rfl rfl rfl

theorem Keeps.settleRetry (h : Keeps s t) (f : Forward) (w : SettleWait) : Keeps s (t.settleRetry i f w) := by
  have hset : ∀ x, Keeps s (t.setSta i { t.sta i with forward := x }) := fun x => h.touchSta rfl rfl
  unfold State.settleRetry
  split
  · exact (hset _).sendShort (by simp [settleBody, length_idMacBody, maxBody])
  · exact (hset _).same (ground_giveReport _ _ _ _)

theorem Keeps.settleTaken (h : Keeps s t) (hg : (t.sta i).handoff = some g) (u : Nat) (day : Option Word) :
    Keeps s (t.settleTaken i g u day) := by
  simp only [State.settleTaken]
  split
  · refine Keeps.recomputeSpent ?_ i
    exact h.changeHandoff hg rfl rfl rfl
  · exact h.changeHandoff hg rfl rfl rfl

end SubRecord

theorem Keeps.offersFail {s t : State} (h : Keeps s t) (n : Node) : Keeps s (t.offersFail n) := by
  refine h.foldl _ fun u i hu => ?_
  split
  · split
    · exact hu.offerFails i _ _ _
    · exact hu
  · exact hu

/-! ## The fetch and the chunk writes (R158, R159, R162) -/

theorem wantBody_le (id : Word) {l : List Nat} (h : l.length ≤ 8) : (wantBody id l).length ≤ maxBody := by
  unfold wantBody maxBody
  simp only [List.length_append, length_be, List.length_cons, List.length_nil]
  rw [length_flatten_const (n := 2) _ (fun k => length_be 2 k)]
  omega

theorem Keeps.sendWant {s t : State} (h : Keeps s t) (n : Node) : Keeps s (t.sendWant n) := by
  simp only [State.sendWant]
  split
  · exact h.same (ground_setFetch _ _)
  · exact (h.sendShort (wantBody_le _ (List.length_take_le _ _))).same (ground_setFetch _ _)

theorem Keeps.selectSource {s t : State} (h : Keeps s t) (f : Fetch) : Keeps s (t.selectSource f) := by
  unfold State.selectSource
  split
  · exact h.sendWant _
  · exact h.same rfl

theorem Keeps.sourceGone {s t : State} (h : Keeps s t) (n : Node) : Keeps s (t.sourceGone n) := by
  unfold State.sourceGone
  split
  · split
    · exact h.selectSource _
    · exact h
  · exact h

theorem Keeps.fetchGoesOn {s t : State} (h : Keeps s t) : Keeps s t.fetchGoesOn := by
  unfold State.fetchGoesOn
  split
  · exact h
  · split
    · exact h
    · split
      · exact h.same (ground_setFetch _ _)
      · split
        · exact h.sendWant _
        · exact h

theorem Keeps.writeChunk {s t : State} (h : Keeps s t) (b : Fin 4) (x : Buf) : Keeps s (t.writeChunk b x) := by
  simp only [State.writeChunk]
  split
  · exact h.same (ground_freeBuf _ _)
  · split
    · exact h.same (by simp)
    · split
      · exact Keeps.fetchGoesOn (h.same (by simp))
      · exact h.same (by simp)
      · exact h.same (by simp)

theorem Keeps.chunkLost {s t : State} (h : Keeps s t) (b : Fin 4) (x : Buf) (cause : Nat) :
    Keeps s (t.chunkLost b x cause) := Keeps.fetchGoesOn (h.same (by simp))

theorem Keeps.chunkWritten {s t : State} (h : Keeps s t) (b : Fin 4) (x : Buf) : Keeps s (t.chunkWritten b x) := by
  simp only [State.chunkWritten]
  split
  · exact h.same (by simp)
  · exact Keeps.fetchGoesOn (h.same (by simp))

theorem Keeps.bufFlashDone {s t : State} (h : Keeps s t) (b : Fin 4) (ok : Bool) (d : List Byte) :
    Keeps s (t.bufFlashDone b ok d) := by
  simp only [State.bufFlashDone]
  split
  · exact h
  · split
    · exact h.chunkLost b _ 1
    · split
      · exact h.same (by simp)
      · split
        · exact h.same (by simp)
        · exact h.same (by simp)
      · split
        · split
          · exact h.chunkWritten b _
          · exact h.chunkLost b _ 2
        · exact h.same (ground_freeBuf _ _)
      · exact h
      · exact h

theorem Keeps.fillFragment {s t : State} (h : Keeps s t) (b : Fin 4) (k : Nat) (l : List (Option (List Byte)))
    (at_ : Ms) (f : Nat) (d : List Byte) : Keeps s (t.fillFragment b k l at_ f d) := by
  simp only [State.fillFragment]
  exact Keeps.ite (h.writeChunk b _) (h.same (ground_setBuf _ _ _))

theorem Keeps.takeFragment {s t : State} (h : Keeps s t) (k n f : Nat) (d : List Byte) :
    Keeps s (t.takeFragment k n f d) := by
  unfold State.takeFragment
  split
  · split
    · split
      · exact h.fillFragment _ _ _ _ _ _
      all_goals exact h
    · exact h
  · split
    · exact h.fillFragment _ _ _ _ _ _
    · exact h

theorem Keeps.stageIn {s t : State} (h : Keeps s t) (id : Nat) (d : List Byte) : Keeps s (t.stageIn id d) := by
  simp only [State.stageIn]
  split
  · exact h
  · split
    · exact h
    · split
      · exact h.same (ground_setBuf _ _ _)
      · exact h.writeChunk _ _

theorem Keeps.workBulkDone {s t : State} (h : Keeps s t) (o : Order) (d : List Byte) :
    Keeps s (t.workBulkDone o d) := by
  unfold State.workBulkDone
  split
  · split
    · exact h.same (ground_setWork _ _)
    · exact h.same (ground_manifestHeadIn _ _ _)
  · split
    · exact h.same (ground_setWork _ _)
    · exact h.same (ground_manifestIn _ _ _)
  · exact h.stageIn _ _
  all_goals exact h

theorem Keeps.bulkDone {s t : State} (h : Keeps s t) (id : Nat) (d : List Byte) : Keeps s (t.bulkDone id d) := by
  unfold State.bulkDone
  split
  · exact h
  · split
    · split
      · split
        · exact h
        · exact h.same (ground_tableGoesOn _ _ _)
      · exact h
    · exact h.workBulkDone _ _
    · exact h.same (ground_readFlashWritten _ _)
    all_goals exact h

theorem Keeps.accessDone {s t : State} (h : Keeps s t) (w : BusOwner) (d : List Byte) : Keeps s (t.accessDone w d) := by
  cases w with
  | bulk id => exact h.bulkDone id d
  | _ => exact h.same (by simp [State.accessDone])

/-! ## Serving (R163) -/

/-- A message carries a fragment of at most 1024 bytes. -/
theorem Keeps.sendFragments {s t : State} (h : Keeps s t) (e : Serve) (d : List Byte) (l : List Nat) :
    Keeps s (State.sendFragments e d l t).1 := by
  induction l generalizing t with
  | nil => exact h
  | cons f l ih =>
    have hsend := h.send (n := e.node) (k := kChunkData)
      (b := dataBody e.id e.chunk f ((d.drop (1024 * f)).take 1024)) fun _ => by
        simp only [dataBody, maxBody, List.length_append, length_be, List.length_cons, List.length_nil,
          List.length_take]
        omega
    simp only [State.sendFragments]
    split
    · exact ih hsend
    · exact hsend

theorem Keeps.serveIn {s t : State} (h : Keeps s t) (d : List Byte) : Keeps s (t.serveIn d) := by
  unfold State.serveIn
  split
  · exact h
  · exact (h.sendFragments _ _ _).same (ground_serveEnds _ _)

theorem Keeps.flashDone {s t : State} (h : Keeps s t) (w : FlashOwner) (ok : Bool) (d : List Byte) :
    Keeps s (t.flashDone w ok d) := by
  cases w with
  | serve => exact h.serveIn d
  | buf b => exact h.bufFlashDone b ok d
  | _ => exact h.same (by simp [State.flashDone])

/-- A CHUNK_NONE names at most 255 chunks. -/
theorem Keeps.sendNone {s t : State} (h : Keeps s t) (n : Node) (id : Word) (busy : Bool) {l : List Nat}
    (hl : l.length ≤ 255) : Keeps s (t.sendNone n id busy l) := by
  unfold State.sendNone
  split
  · exact h
  · refine h.sendShort ?_
    unfold noneBody maxBody
    simp only [List.length_append, length_be, List.length_cons, List.length_nil]
    rw [length_flatten_const (n := 2) _ (fun k => length_be 2 k)]
    omega

theorem length_wantedChunks (b : List Byte) : (wantedChunks b).length ≤ 255 := by
  have := (byteAt b 4).isLt
  simp only [wantedChunks, List.length_map, List.length_range]
  omega

end Sys2Proof.Machine.AirtimeScheduling
end

section
/-!
PROOFS. Every command keeps the ranges of the buckets, the deficits and the costs, and so does every step: O8.
-/

namespace Sys2Proof.Machine.AirtimeScheduling

open Sys2Proof Sys2Proof.Machine Sys2Proof.Machine.FlowClassification

/-- A result keeps the ranges when the next state it answers does. -/
def Sound (s : State) (r : Result) : Prop := ∀ t, r = .next t → Keeps s t

theorem sound_next {s t : State} (h : Keeps s t) : Sound s (.next t) := by
  rintro u ⟨⟩
  exact h

/-- A command that leaves the ports and the records. -/
theorem sound_of_ground {s t : State} (h : ground t = ground s) : Sound s (.next t) := sound_next (keeps_of_ground h)

/-! ## The ways a command works its order, frame or message -/

theorem sound_workOrder {b : BlockId} {k : Byte} {f : Order → State → State} {s : State}
    (h : ∀ o, Keeps s (f o s)) : Sound s (workOrder b k f s) := by
  cases hh : s.freshHead b k with
  | none => rw [workOrder_of_none f hh]; exact sound_next (.refl s)
  | some o => rw [workOrder_of_some f hh]; exact sound_next (h o)

theorem sound_workProfile {k : Byte} {f : Order → ProfIx → State → State} {s : State}
    (h : ∀ o p, ground (f o p s) = ground s) : Sound s (workProfile k f s) := by
  refine sound_workOrder fun o => ?_
  split
  · exact keeps_of_ground (h o _)
  · exact keeps_of_ground (ground_refuse _ _ _)

theorem sound_workStager {k : Byte} {f : Order → State → State} {s : State} (h : ∀ o, Keeps s (f o s)) :
    Sound s (workStager k f s) := by
  refine sound_next (Keeps.ite ?_ (.refl s))
  split
  · exact h _
  · exact .refl s

theorem sound_workStaging {k : Byte} {f : Order → State → State} {s : State} (h : ∀ o, ground (f o s) = ground s) :
    Sound s (workStaging k f s) := by
  refine sound_next (Keeps.ite ?_ (.refl s))
  split
  · refine Keeps.ite ?_ (.refl s)
    split
    · exact keeps_of_ground (h _)
    · exact keeps_of_ground (ground_refuse _ _ _)
    all_goals exact .refl s
  · exact .refl s

/-- A message is worked in a state that has the ports and the records of `s`. -/
theorem sound_workMessage {kind : Nat} {f : Msg → State → State} {s : State}
    (h : ∀ m t, Keeps s t → Keeps s (f m t)) : Sound s (workMessage kind f s) := by
  refine sound_next ?_
  split
  · exact .refl s
  · next m rest _ => exact Keeps.ite (h m _ (keeps_of_ground rfl)) (.refl s)

theorem sound_workChunkMessage {kind : Nat} {f : Msg → State → State} {s : State}
    (h : ∀ m t, Keeps s t → Keeps s (f m t)) : Sound s (workChunkMessage kind f s) := by
  refine sound_next ?_
  split
  · exact .refl s
  · next m rest _ => exact Keeps.ite (h m _ (keeps_of_ground rfl)) (.refl s)

/-- A frame under ingress is at most 2048 bytes long (R32). -/
theorem sound_workStage {p : PortId} {g : Stage} {f : Ingress → State → State} {s : State}
    (h : ∀ x, (RoundInv s → x.frame.length ≤ 2048) → Keeps s (f x s)) : Sound s (workStage p g f s) := by
  refine sound_next ?_
  split
  · next x hx => exact Keeps.ite (h x fun hs => (hs.port p).taken x hx) (.refl s)
  · exact .refl s

/-! ## The exchange (chapter 1) -/

/-- Power-on and reset leave ports and records in range whatever they were. -/
theorem keeps_of_values {s t : State} (hb : ∀ p, BucketOk (t.port p)) (hp : ∀ p, RoundOk p (t.port p))
    (hr : ∀ i, RecordOk (t.sta i)) : Keeps s t := keeps_of_parts (fun p _ => hb p) (fun p _ => hp p) fun i _ => hr i

theorem reset_port (p : PortId) : State.reset.port p = Port.reset p := by cases p <;> rfl

theorem reset_sta (i : StaIx) : State.reset.sta i = Station.free := get_replicate _ _ _

theorem keeps_powerOn (s : State) : Keeps s { State.reset with pending := s.pending } := by
  have hport : ∀ p, ({ State.reset with pending := s.pending } : State).port p = Port.reset p := reset_port
  have hsta : ∀ i, ({ State.reset with pending := s.pending } : State).sta i = Station.free := reset_sta
  refine keeps_of_values (fun p => ?_) (fun p => ?_) fun i => ?_
  · rw [hport]; exact bucketOk_reset p
  · rw [hport]; exact roundOk_reset p
  · rw [hsta]; exact recordOk_of_none rfl rfl

theorem engineReset_port (s : State) (p : PortId) : s.engineReset.port p = portAtReset p (s.port p) := by
  cases p <;> rfl

theorem keeps_engineReset (s : State) : Keeps s s.engineReset := by
  have hsta : ∀ i, s.engineReset.sta i = Station.free := reset_sta
  refine keeps_of_values (fun p => ?_) (fun p => ?_) fun i => ?_
  · rw [engineReset_port]
    exact bucketOk_congr (bucketOk_reset p) rfl rfl rfl
  · rw [engineReset_port]
    exact roundOk_congr (roundOk_reset p) rfl rfl (roundOk_reset p).taken rfl rfl rfl
  · rw [hsta]; exact recordOk_of_none rfl rfl

theorem keeps_controlReset (s : State) : Keeps s s.controlReset := Keeps.ite (.refl s) (keeps_engineReset s)

theorem keeps_writeControl (s : State) (v : Word) : Keeps s (s.writeControl v) :=
  Keeps.ite (keeps_controlReset s) <| Keeps.ite (keeps_of_ground (ground_controlRun _ _)) <|
    Keeps.ite (keeps_of_ground (ground_causeLook s)) (.refl s)

theorem keeps_writeRegister (s : State) (k : Nat) (v : Word) : Keeps s (s.writeRegister k v) := by
  unfold State.writeRegister
  split
  · exact keeps_of_ground rfl
  · exact keeps_of_ground rfl
  · exact keeps_of_ground rfl
  · exact keeps_writeControl s v
  · exact keeps_of_ground rfl
  · exact keeps_of_ground rfl
  · exact .refl s

theorem sound_registerWrite (offset : BitVec 5) (w : Width) (v : Word) (s : State) :
    Sound s (execRegisterWrite offset w v s) := by
  refine sound_next ?_
  split
  · exact Keeps.ite (keeps_writeRegister s _ v) (.refl s)
  · exact .refl s
  · exact .refl s

theorem sound_resetDone (s : State) : Sound s (execResetDone s) := by
  refine sound_of_ground ?_
  split <;> rfl

theorem sound_scanTimerExpiry (s : State) : Sound s (execScanTimerExpiry s) := by
  refine sound_of_ground ?_
  repeat' split
  all_goals simp

theorem sound_look (s : State) : Sound s (execLook s) := by
  refine sound_of_ground ?_
  repeat' split
  all_goals simp

theorem sound_takeComplete (s : State) : Sound s (execTakeComplete s) := by
  refine sound_of_ground ?_
  repeat' split
  all_goals simp

theorem sound_unknownOrder (s : State) : Sound s (execUnknownOrder s) := by
  refine sound_of_ground ?_
  repeat' split
  all_goals simp

theorem sound_answer (s : State) : Sound s (execAnswer s) := by
  refine sound_of_ground ?_
  dsimp only
  repeat' split
  all_goals simp

theorem sound_reportArrival (s : State) : Sound s (execReportArrival s) := by
  refine sound_of_ground ?_
  split <;> simp

theorem sound_placement (s : State) : Sound s (execPlacement s) := by
  refine sound_of_ground ?_
  dsimp only
  split <;> simp

theorem sound_busAccessComplete (ok : Bool) (d : List Byte) (s : State) : Sound s (execBusAccessComplete ok d s) := by
  refine sound_next ?_
  split
  · refine Keeps.same (?_ : Keeps s _) (ground_busFree _)
    exact Keeps.ite ((Keeps.refl s).accessDone _ _) (keeps_of_ground (ground_accessFails _ _))
  · exact .refl s

theorem sound_busAccessTimeout (s : State) : Sound s (execBusAccessTimeout s) := by
  refine sound_of_ground ?_
  repeat' split
  all_goals simp

theorem sound_nop (s : State) : Sound s (execNop s) := sound_workOrder fun _ => keeps_of_ground (ground_accept _ _ _)

theorem sound_engineInfo (s : State) : Sound s (execEngineInfo s) :=
  sound_workOrder fun _ => keeps_of_ground (ground_accept _ _ _)

theorem sound_readTable (s : State) : Sound s (execReadTable s) := by
  refine sound_workOrder fun o => keeps_of_ground ?_
  dsimp only
  repeat' split
  all_goals simp

theorem sound_readMore (s : State) : Sound s (execReadMore s) := by
  refine sound_workOrder fun o => keeps_of_ground ?_
  dsimp only
  repeat' split
  all_goals simp

/-! ## The Frame Path and the scheduler (chapters 2 and 4) -/

/-- SET_PORT gives every field its clamped value, the bucket its depth and every deficit 0 (R29, R79). -/
theorem sound_setPort (s : State) : Sound s (execSetPort s) := by
  refine sound_workOrder fun o => ?_
  dsimp only
  split
  · exact keeps_of_ground (ground_refuse _ _ _)
  · next p _ =>
    refine Keeps.same (?_ : Keeps s _) (ground_accept _ _ _)
    refine Keeps.setPort (Keeps.ite ?_ (.refl s)) (fun _ => bucketOk_configure _ _ _ _)
      fun _ hr => roundOk_configure o _ _ hr
    exact ((Keeps.refl s).purgePort p _).same (ground_dropAddresses _ _)

theorem sound_portStats (s : State) : Sound s (execPortStats s) := by
  refine sound_workOrder fun o => ?_
  dsimp only
  split
  · refine Keeps.ite (keeps_of_ground (ground_refuse _ _ _)) ?_
    refine Keeps.same (?_ : Keeps s _) (ground_accept _ _ _)
    refine Keeps.ite ?_ (.refl s)
    exact (Keeps.refl s).setPort (fun hb => bucketOk_congr hb rfl rfl rfl) fun _ hr =>
      roundOk_congr hr rfl rfl hr.taken rfl rfl rfl
  · exact keeps_of_ground (ground_refuse _ _ _)

/-- A port takes frames of at most 2048 bytes (R32). -/
theorem sound_acceptance (p : PortId) (f : List Byte) (n : Int) (s : State) : Sound s (execAcceptance p f n s) := by
  refine sound_next ?_
  split
  · exact .refl s
  · unfold State.acceptFrame
    split
    · exact .refl s
    · split
      · exact (Keeps.refl s).count _ _ _
      · next hlen =>
        refine Keeps.ite (Keeps.ite (keeps_of_ground rfl) (.refl s)) ?_
        refine (Keeps.refl s).setIngress fun _ y hy => ?_
        cases hy
        change f.length ≤ 2048
        omega

theorem eq_of_ite_none {α : Type} {c : Prop} [Decidable c] {y z : α} (h : (if c then none else some y) = some z) :
    z = y := by
  split at h
  · cases h
  · cases h
    rfl

section Stage
variable {s t : State} {p : PortId} {x : Ingress} (hx : RoundInv s → x.frame.length ≤ 2048)
include hx

/-- A stage hands the same frame to the next one. -/
theorem Keeps.passFrame {y : Ingress} (h : Keeps s t) (hy : y.frame = x.frame) : Keeps s (t.setIngress p (some y)) :=
  h.setIngress fun hs z hz => by
    cases hz
    rw [hy]
    exact hx hs

theorem Keeps.toEnqueue (h : Keeps s t) (l : List Pending) : Keeps s (t.toEnqueue p x l) := by
  refine h.setIngress fun hs z hz => ?_
  rw [eq_of_ite_none hz]
  exact hx hs

end Stage

theorem sound_endResolution (p : PortId) (s : State) : Sound s (execEndResolution p s) := by
  refine sound_workStage fun x hx => ?_
  dsimp only
  split
  · split
    · exact ((Keeps.refl s).count _ _ _).endIngress
    · refine Keeps.passFrame hx ?_ rfl
      exact (Keeps.refl s).touchSta rfl rfl
  · exact Keeps.passFrame hx (Keeps.ite (.refl s) (keeps_of_ground (ground_learn _ _ _))) rfl

theorem sound_flowLookup (p : PortId) (s : State) : Sound s (execFlowLookup p s) := by
  refine sound_workStage fun x hx => ?_
  dsimp only
  split
  · exact Keeps.passFrame hx (.refl s) rfl
  · split
    · exact (Keeps.refl s).runMatchList hx _ _
    · split
      · exact Keeps.passFrame hx (keeps_of_ground (ground_placeFlow _ _)) rfl
      · exact (Keeps.refl s).runMatchList hx _ _

theorem sound_gateCheck (p : PortId) (s : State) : Sound s (execGateCheck p s) := by
  refine sound_workStage fun x hx => ?_
  have hcount := (Keeps.refl s).count p x.cls .gate
  dsimp only
  exact Keeps.ite (Keeps.passFrame hx (.refl s) rfl) (Keeps.ite (Keeps.passFrame hx hcount rfl) hcount.endIngress)

theorem sound_activityByteCounting (p : PortId) (s : State) : Sound s (execActivityByteCounting p s) := by
  refine sound_workStage fun x hx => Keeps.passFrame hx ?_ rfl
  split
  · exact Keeps.ite (.refl s) ((Keeps.refl s).addBytes _ _)
  · exact .refl s

theorem sound_destinationResolution (p : PortId) (s : State) : Sound s (execDestinationResolution p s) := by
  refine sound_workStage fun x hx => ?_
  have hout : Keeps s (s.setIngress p none) := (Keeps.refl s).endIngress
  dsimp only
  split
  · exact Keeps.toEnqueue hx (.refl s) _
  · refine Keeps.ite hout ?_
    split
    · exact hout.enqueueNew hx
    · exact hout.enqueueNew hx
    · exact hout.enqueueNew hx
    · exact hout.holdFrame hx
    · exact hout.holdFrame hx
    · exact hout.enqueueNew hx
    · exact hout.count _ _ _
    · exact hout

theorem sound_enqueue (p : PortId) (s : State) : Sound s (execEnqueue p s) := by
  refine sound_workStage fun x hx => ?_
  dsimp only
  split
  · exact (Keeps.refl s).endIngress
  · refine Keeps.enqueueNew ((Keeps.refl s).setIngress fun hs z hz => ?_) hx
    rw [eq_of_ite_none hz]
    exact hx hs

theorem sound_linkReady (p : PortId) (s : State) : Sound s (execLinkReady p s) := by
  refine sound_next ?_
  dsimp only
  split
  · exact (Keeps.refl s).setPort (fun hb => bucketOk_congr hb rfl rfl rfl) fun _ hr =>
      roundOk_congr hr rfl rfl hr.taken rfl rfl rfl
  · exact .refl s
  · exact .refl s

theorem sound_transmitOpportunity (p : PortId) (s : State) : Sound s (execTransmitOpportunity p s) := by
  refine sound_next (Keeps.ite (Keeps.ite ?_ ?_) (.refl s))
  · exact (Keeps.refl s).setPort (bucketOk_opportunityOf s) fun _ => roundOk_opportunityOf s
  · exact (Keeps.refl s).setPort (fun hb => bucketOk_congr hb rfl rfl rfl) fun _ hr =>
      roundOk_congr hr rfl rfl hr.taken rfl rfl rfl

theorem sound_transmitCompletion (p : PortId) (s : State) : Sound s (execTransmitCompletion p s) := by
  have hidle : Keeps s (s.setPort p { s.port p with tx := .notReady, onLink := none }) :=
    (Keeps.refl s).setPort (fun hb => bucketOk_congr hb rfl rfl rfl) fun _ hr =>
      roundOk_congr hr rfl rfl hr.taken rfl rfl rfl
  have hghost : Keeps s (s.setPort p { s.port p with ghosts := (s.port p).ghosts - 1 }) :=
    (Keeps.refl s).setPort (fun hb => bucketOk_congr hb rfl rfl rfl) fun _ hr =>
      roundOk_congr hr rfl rfl hr.taken rfl rfl rfl
  refine sound_next ?_
  dsimp only
  split
  · split
    · exact (hidle.count _ _ _).same (ground_returnBuffers _ _)
    · exact hidle
  · exact Keeps.ite (.refl s) (hghost.same (ground_returnBuffers _ _))
  · exact Keeps.ite (.refl s) (hghost.same (ground_returnBuffers _ _))

theorem sound_addressAging (s : State) : Sound s (execAddressAging s) := by
  refine sound_of_ground ?_
  split <;> rfl

/-! ## The Flow Classifier, the Station Table and the clock (chapters 3, 5 and 6) -/

theorem sound_flowAging (s : State) : Sound s (execFlowAging s) := by
  refine sound_next (Keeps.ite ?_ (.refl s))
  exact keeps_of_map (f := fun r => { r with lastGame := forget s.now 60000 r.lastGame }) (fun _ => ⟨rfl, rfl⟩) rfl rfl

theorem sound_setRule (s : State) : Sound s (execSetRule s) := by
  refine sound_workOrder fun o => keeps_of_ground ?_
  split <;> simp

theorem sound_clearRule (s : State) : Sound s (execClearRule s) := by
  refine sound_workOrder fun o => keeps_of_ground ?_
  split <;> simp

theorem sound_setFlowTimes (s : State) : Sound s (execSetFlowTimes s) := sound_workOrder fun _ => keeps_of_ground rfl

theorem sound_setQuiet (s : State) : Sound s (execSetQuiet s) := sound_workOrder fun _ => keeps_of_ground rfl

theorem sound_admitStation (s : State) : Sound s (execAdmitStation s) := by
  refine sound_workOrder fun o => ?_
  dsimp only
  split
  · exact Keeps.ite ((Keeps.refl s).admission _ _ _ _ _ _) (keeps_of_ground (ground_refuse _ _ _))
  · exact keeps_of_ground (ground_refuse _ _ _)

theorem sound_departStation (s : State) : Sound s (execDepartStation s) := by
  have hdepart : ∀ i, Keeps s (s.setSta i { s.sta i with departed := true }) := fun i =>
    (Keeps.refl s).touchSta rfl rfl
  refine sound_workOrder fun o => ?_
  split
  · exact keeps_of_ground (ground_refuse _ _ _)
  · next i _ =>
    split
    · exact ((Keeps.refl s).freeStation i).same (ground_accept _ _ _)
    · exact ((Keeps.refl s).freeStation i).same (ground_accept _ _ _)
    · exact (hdepart i).same (ground_accept _ _ _)
    · exact (hdepart i).same (ground_accept _ _ _)
    · exact (hdepart i).same (ground_accept _ _ _)
    · exact keeps_of_ground (ground_accept _ _ _)
    · exact keeps_of_ground (ground_refuse _ _ _)
    · exact keeps_of_ground (ground_refuse _ _ _)

theorem sound_setStation (s : State) : Sound s (execSetStation s) := by
  refine sound_workOrder fun o => ?_
  have hrefuse : ∀ c, Keeps s (s.refuse o c) := fun c => keeps_of_ground (ground_refuse _ _ _)
  dsimp only
  split
  · next i profile _ _ =>
    have hset : Keeps s (s.setSta i { s.sta i with
        profile := profile
        rate := clamp 1 4800 (o.u16 2)
        used := clamp 0 1440 (o.u16 4)
        bonus := clamp 0 720 (o.u16 6) }) := (Keeps.refl s).touchSta rfl rfl
    have hgate := ((hset.same (ground_profileChanged _ (s.sta i).profile profile)).recomputeSpent i).recomputeGate i
    split
    · exact hrefuse _
    · exact hrefuse _
    · exact hrefuse _
    · exact hrefuse _
    · exact hrefuse _
    · exact hrefuse _
    · exact hgate.same (ground_accept _ _ _)
    · exact hgate.same (ground_accept _ _ _)
  · exact hrefuse _

theorem sound_grantBonus (s : State) : Sound s (execGrantBonus s) := by
  refine sound_workOrder fun o => ?_
  dsimp only
  split
  · exact (Keeps.refl s).grantStation _ _ _
  · exact (Keeps.refl s).grantProfile _ _ _
  · exact keeps_of_ground (ground_refuse _ _ _)

theorem keeps_stampAll (s : State) (day : Word) : Keeps s (s.stampAll day) := by
  refine keeps_of_map (fun r => ?_) rfl rfl
  split <;> exact ⟨rfl, rfl⟩

theorem Keeps.clockSet {s t : State} (h : Keeps s t) (b : Bool) (old day : Word) : Keeps s (t.clockSet b old day) := by
  refine Keeps.recomputeAllSpent (Keeps.ite (h.same rfl) ?_)
  exact (Keeps.ite h (h.trans (keeps_stampAll t day))).same (ground_triggerAll _ _ _)

theorem sound_setClock (s : State) : Sound s (execSetClock s) := by
  refine sound_workOrder fun o => ?_
  dsimp only
  split
  · exact keeps_of_ground (ground_refuse _ _ _)
  · refine Keeps.ite (keeps_of_ground (ground_refuse _ _ _)) ?_
    refine Keeps.same (Keeps.clockSet ?_ _ _ _ : Keeps s _) (ground_accept _ _ _)
    exact keeps_of_ground rfl

theorem sound_clockInfo (s : State) : Sound s (execClockInfo s) :=
  sound_workOrder fun _ => keeps_of_ground (ground_accept _ _ _)

theorem sound_minuteEvent (s : State) : Sound s (execMinuteEvent s) := by
  refine sound_of_ground ?_
  dsimp only
  repeat' split
  all_goals rfl

theorem sound_unsetMinuteEvent (s : State) : Sound s (execUnsetMinuteEvent s) := by
  refine sound_of_ground ?_
  dsimp only
  split <;> rfl

theorem sound_activeMinuteCount (s : State) : Sound s (execActiveMinuteCount s) := by
  refine sound_next ?_
  split
  · refine Keeps.foldl ?_ _ fun _ i hu => hu.recomputeSpent i
    refine keeps_of_map (f := s.minuteOf) (fun r => ?_) rfl rfl
    unfold State.minuteOf
    split <;> exact ⟨rfl, rfl⟩
  · exact .refl s

theorem keeps_rollOver (s : State) (l : List MinuteKind) (day : Word) (b : Bool) : Keeps s (s.rollOver l day b) := by
  refine Keeps.recomputeAllSpent (keeps_of_map (f := Station.newDay day b) (fun r => ?_) rfl rfl)
  unfold Station.newDay
  split <;> exact ⟨rfl, rfl⟩

theorem sound_dayRollover (s : State) : Sound s (execDayRollover s) := by
  refine sound_next ?_
  split
  · exact keeps_rollOver s _ _ _
  · exact keeps_rollOver s _ _ _
  · exact .refl s

theorem sound_stateChangeNotice (s : State) : Sound s (execStateChangeNotice s) := by
  refine sound_next ?_
  split
  · exact Keeps.eachSta (keeps_of_ground (ground_noticeTaken s _)) fun _ i hu => hu.recomputeGate i
  · exact Keeps.eachSta (keeps_of_ground (ground_noticeTaken s _)) fun _ i hu => hu.recomputeGate i
  · exact .refl s

theorem sound_allowanceNotice (s : State) : Sound s (execAllowanceNotice s) := by
  refine sound_next ?_
  split
  · exact Keeps.eachSta (keeps_of_ground (ground_noticeTaken s _)) fun _ i hu => hu.recomputeSpent i
  · exact .refl s

theorem sound_rateNotice (r : Radio) (m : Mac) (n : Half) (s : State) : Sound s (execRateNotice r m n s) := by
  refine sound_next ?_
  split
  · exact (Keeps.refl s).touchSta rfl rfl
  · exact .refl s

/-! ## The Profile Engine (chapter 7) -/

theorem sound_evaluation (s : State) : Sound s (execEvaluation s) := by
  refine sound_of_ground ?_
  dsimp only
  split
  · rfl
  · rw [ground_reply]
    split
    · rw [ground_evaluate]; rfl
    · rfl

theorem sound_setProfile (s : State) : Sound s (execSetProfile s) := by
  refine sound_workProfile fun o p => ?_
  dsimp only
  repeat' split
  all_goals simp

theorem sound_setProgram (s : State) : Sound s (execSetProgram s) := by
  refine sound_workProfile fun o p => ?_
  dsimp only
  repeat' split
  all_goals simp

theorem sound_clearProfile (s : State) : Sound s (execClearProfile s) := by
  refine sound_workProfile fun o p => ?_
  dsimp only
  repeat' split
  all_goals simp

theorem sound_pauseProfile (s : State) : Sound s (execPauseProfile s) :=
  sound_workProfile fun _ _ => ground_setPause _ _ _ _ _

theorem sound_resumeProfile (s : State) : Sound s (execResumeProfile s) :=
  sound_workProfile fun _ _ => ground_setPause _ _ _ _ _

theorem sound_restartProfile (s : State) : Sound s (execRestartProfile s) := by
  refine sound_workProfile fun o p => ?_
  dsimp only
  split <;> simp

theorem sound_raiseLock (s : State) : Sound s (execRaiseLock s) := by
  refine sound_workProfile fun o p => ?_
  dsimp only
  split <;> simp

/-! ## The Mesh Link Controller (chapter 8) -/

theorem sound_setNode (s : State) : Sound s (execSetNode s) := by
  refine sound_workOrder fun o => keeps_of_ground ?_
  dsimp only
  repeat' split
  all_goals simp

theorem sound_setPeer (s : State) : Sound s (execSetPeer s) := by
  refine sound_workOrder fun o => keeps_of_ground ?_
  dsimp only
  repeat' split
  all_goals simp

theorem sound_clearPeer (s : State) : Sound s (execClearPeer s) := by
  refine sound_workOrder fun o => keeps_of_ground ?_
  dsimp only
  repeat' split
  all_goals simp

theorem sound_meshInfo (s : State) : Sound s (execMeshInfo s) :=
  sound_workOrder fun _ => keeps_of_ground (ground_accept _ _ _)

theorem sound_meshControlFrame (s : State) : Sound s (execMeshControlFrame s) := by
  refine sound_of_ground ?_
  split <;> simp

theorem length_beaconBody (s : State) : s.beaconBody.length = 12 := by
  simp [State.beaconBody]

theorem sound_beaconTimer (s : State) : Sound s (execBeaconTimer s) := by
  refine sound_next (Keeps.ite (Keeps.sendBeacon (keeps_of_ground rfl) ?_) (.refl s))
  rw [length_beaconBody]
  decide

theorem sound_peerSilent (n : Node) (s : State) : Sound s (execPeerSilent n s) := by
  refine sound_of_ground ?_
  repeat' split
  all_goals rfl

theorem sound_presenceNotice (s : State) : Sound s (execPresenceNotice s) := by
  refine sound_next ?_
  split
  · exact .refl s
  · next n present rest _ =>
    have htaken : Keeps s { s with mlc := { s.mlc with presence := rest } } := keeps_of_ground rfl
    exact Keeps.ite htaken (((htaken.offersFail n).same (ground_dropServesOf _ n)).sourceGone n)

/-! ## The Handoff Controller (chapter 9) -/

theorem sound_setRoaming (s : State) : Sound s (execSetRoaming s) := sound_workOrder fun _ => keeps_of_ground rfl

theorem sound_checkEvent (s : State) : Sound s (execCheckEvent s) := by
  refine sound_next (Keeps.ite (Keeps.foldl ?_ _ fun _ i hu => hu.checkStation i) (.refl s))
  exact keeps_of_ground rfl

theorem reportBody_le (s : State) (m : Mac) (x : Option Int) (b : Bool) : (s.reportBody m x b).length ≤ maxBody := by
  simp [State.reportBody, macBytes, maxBody]

theorem sound_signalQuery (s : State) : Sound s (execSignalQuery s) := by
  refine sound_workMessage fun m t h => ?_
  exact Keeps.ite h (Keeps.ite (h.sendShort (reportBody_le _ _ _ _)) (h.same (ground_setListen _ _)))

theorem sound_listenWindowEnd (m : Mac) (n : Node) (s : State) : Sound s (execListenWindowEnd m n s) := by
  refine sound_next ?_
  split
  · refine Keeps.ite (Keeps.sendShort ?_ (reportBody_le _ _ _ _)) (.refl s)
    exact keeps_of_ground (ground_setListen _ _)
  · exact .refl s

theorem sound_signalReport (s : State) : Sound s (execSignalReport s) := by
  refine sound_workMessage fun m t h => ?_
  split
  · split
    · exact h.reportTaken _ _ _
    · exact h
  · exact h

theorem sound_queryDeadline (i : StaIx) (s : State) : Sound s (execQueryDeadline i s) := by
  refine sound_next ?_
  split
  · exact Keeps.ite ((Keeps.refl s).closeQuery i) (.refl s)
  · exact .refl s

theorem sound_offer (s : State) : Sound s (execOffer s) := by
  refine sound_workMessage fun m t h => ?_
  split
  · exact h.sendShort (by simp [length_idMacBody, maxBody])
  · exact h.sendShort (idMacBody_le _ _)
  · exact (h.reserve _ _ _).sendShort (idMacBody_le _ _)

theorem sound_accept (s : State) : Sound s (execAccept s) := by
  refine sound_workMessage fun m t h => ?_
  split
  · next i g hf => exact h.beginMove (findHandoff_some hf)
  · exact Keeps.ite h (h.sendShort (idMacBody_le _ _))

theorem sound_decline (s : State) : Sound s (execDecline s) := by
  refine sound_workMessage fun m t h => ?_
  split
  · exact h.offerFails _ _ _ _
  · exact h

theorem sound_retryWaitExpiry (i : StaIx) (s : State) : Sound s (execRetryWaitExpiry i s) := by
  have h := Keeps.refl s
  refine sound_next ?_
  dsimp only
  split
  · exact h
  · refine Keeps.ite ?_ h
    split
    · next hg => exact h.offerRetry hg
    · next hg => exact h.withdrawRetry hg
    · next hg => exact h.confirmRetry hg
    · split
      · exact h.settleRetry _ _
      · exact h
    · exact h

/-- A deadline that has passed is that of the record's sub-record. -/
theorem pastDeadline_some {s : State} {i : StaIx} {g : StaState} {h : Handoff} (e : s.pastDeadline i g = some h) :
    (s.sta i).handoff = some h := by
  simp only [State.pastDeadline] at e
  split at e
  · exact (Option.filter_eq_some_iff.1 e).1
  · cases e

theorem sound_moveDeadline (i : StaIx) (s : State) : Sound s (execMoveDeadline i s) := by
  refine sound_next ?_
  split
  · next hp =>
    refine Keeps.sendShort ?_ (idMacBody_le _ _)
    exact (Keeps.refl s).changeHandoff (pastDeadline_some hp) rfl rfl rfl
  · exact .refl s

theorem sound_confirm (s : State) : Sound s (execConfirm s) := by
  refine sound_workMessage fun m t h => ?_
  split
  · exact h.completeMove _ _
  · exact h

theorem sound_settle (s : State) : Sound s (execSettle s) := by
  have hack : ∀ id b, (ackBody id b).length ≤ maxBody := fun id b => by simp [ackBody, HandoffId.beBytes, maxBody]
  refine sound_workMessage fun m t h => ?_
  dsimp only
  split
  · next i g hf => exact (h.settleTaken (findHandoff_some hf) _ _).sendShort (hack _ _)
  · exact h.sendShort (hack _ _)

theorem sound_settleAck (s : State) : Sound s (execSettleAck s) := by
  refine sound_workMessage fun m t h => ?_
  split
  · exact h.touchSta rfl rfl
  · exact h

theorem sound_settleWaitEnd (i : StaIx) (s : State) : Sound s (execSettleWaitEnd i s) := by
  refine sound_next ?_
  split
  · exact (Keeps.refl s).setHandoff rfl nofun
  · exact .refl s

theorem sound_graceDeadline (i : StaIx) (s : State) : Sound s (execGraceDeadline i s) := by
  refine sound_next ?_
  split
  · exact Keeps.ite (((Keeps.refl s).freeStation i).same (ground_giveReport _ _ _ _)) (.refl s)
  · exact .refl s

theorem sound_arrivalDeadline (i : StaIx) (s : State) : Sound s (execArrivalDeadline i s) := by
  refine sound_next ?_
  split
  · exact ((Keeps.refl s).freeStation i).same (ground_giveReport _ _ _ _)
  · exact .refl s

theorem sound_withdraw (s : State) : Sound s (execWithdraw s) := by
  refine sound_workMessage fun m t h => ?_
  split
  · exact (h.freeStation _).sendShort (idMacBody_le _ _)
  · exact h.sendShort (idMacBody_le _ _)

theorem sound_withdrawAck (s : State) : Sound s (execWithdrawAck s) := by
  refine sound_workMessage fun m t h => ?_
  split
  · exact h.returnStation _ _ _
  · exact h

theorem sound_forceHandoff (s : State) : Sound s (execForceHandoff s) := by
  have hrefuse : ∀ o c, Keeps s (s.refuse o c) := fun o c => keeps_of_ground (ground_refuse _ _ _)
  refine sound_workOrder fun o => ?_
  dsimp only
  split
  · next i n _ _ =>
    have hbegin : Keeps s ((s.mark o.id .working).beginOffer i n) :=
      Keeps.beginOffer (keeps_of_ground (ground_mark _ _ _)) i n
    exact Keeps.ite (hrefuse _ _) (Keeps.ite (hbegin.same rfl) (hrefuse _ _))
  · exact hrefuse _ _

/-! ## The flash and the stager (chapter 10) -/

theorem sound_slotRecordCheck (s : State) : Sound s (execSlotRecordCheck s) := by
  refine sound_of_ground ?_
  split <;> simp

theorem sound_flashOperationComplete (d : List Byte) (s : State) : Sound s (execFlashOperationComplete d s) := by
  refine sound_next ?_
  split
  · exact ((Keeps.refl s).flashDone _ _ _).same (ground_opEnds _)
  · refine Keeps.ite (keeps_of_ground (ground_startFlash _)) ?_
    split
    · exact keeps_of_ground (ground_setBoot _ _)
    · exact .refl s

theorem sound_flashTimeout (s : State) : Sound s (execFlashTimeout s) := by
  refine sound_next ?_
  split
  · refine Keeps.ite ?_ (.refl s)
    refine Keeps.same (Keeps.flashDone ?_ _ _ _ : Keeps s _) (ground_opEnds _)
    exact keeps_of_ground rfl
  · exact .refl s

theorem sound_beginStaging (s : State) : Sound s (execBeginStaging s) := by
  refine sound_workStaging fun o => ?_
  repeat' split
  all_goals simp

theorem sound_stageChunk (s : State) : Sound s (execStageChunk s) := by
  refine sound_workStaging fun o => ?_
  dsimp only
  repeat' split
  all_goals simp

theorem sound_resumeStaging (s : State) : Sound s (execResumeStaging s) := by
  refine sound_workStaging fun o => ?_
  repeat' split
  all_goals simp

theorem sound_cancelStaging (s : State) : Sound s (execCancelStaging s) := by
  refine sound_of_ground ?_
  repeat' split
  all_goals simp

theorem sound_fetchFromPeers (s : State) : Sound s (execFetchFromPeers s) := by
  refine sound_workStager fun o => Keeps.ite (keeps_of_ground (ground_refuse _ _ _)) ?_
  split
  · exact keeps_of_ground (ground_refuse _ _ _)
  · exact Keeps.selectSource (keeps_of_ground (ground_accept _ _ _)) _

theorem sound_batchDeadline (s : State) : Sound s (execBatchDeadline s) := by
  refine sound_next ?_
  split
  · split
    · exact Keeps.ite ((Keeps.refl s).selectSource _) (.refl s)
    · exact .refl s
  · exact .refl s

theorem sound_selectionRetry (s : State) : Sound s (execSelectionRetry s) := by
  refine sound_next ?_
  split
  · split
    · exact Keeps.ite ((Keeps.refl s).selectSource _) (.refl s)
    · exact .refl s
  · exact .refl s

theorem sound_chunkData (s : State) : Sound s (execChunkData s) := by
  refine sound_workChunkMessage fun m t h => ?_
  dsimp only
  split
  · exact Keeps.ite (h.takeFragment _ _ _ _) h
  · exact h

theorem sound_assemblyTimeout (b : Fin 4) (s : State) : Sound s (execAssemblyTimeout b s) := by
  refine sound_of_ground ?_
  repeat' split
  all_goals simp

theorem sound_chunkNone (s : State) : Sound s (execChunkNone s) := by
  refine sound_workChunkMessage fun m t h => ?_
  split
  · exact Keeps.ite (h.selectSource _) h
  · exact h

theorem sound_chunkWant (s : State) : Sound s (execChunkWant s) := by
  refine sound_workChunkMessage fun m t h => ?_
  have hfilter : ∀ f g, ((((wantedChunks m.body).filter f).filter g).length ≤ 255) := fun f g =>
    Nat.le_trans (List.length_filter_le _ _) (Nat.le_trans (List.length_filter_le _ _) (length_wantedChunks _))
  refine Keeps.sendNone (Keeps.sendNone ?_ _ _ _ ?_) _ _ _ (hfilter _ _)
  · exact h.same rfl
  · exact Nat.le_trans (List.length_filter_le _ _) (length_wantedChunks _)

theorem sound_serveStart (s : State) : Sound s (execServeStart s) := by
  refine sound_of_ground ?_
  dsimp only
  repeat' split
  all_goals simp

theorem sound_setUpdateWindow (s : State) : Sound s (execSetUpdateWindow s) := by
  refine sound_workStager fun o => keeps_of_ground ?_
  dsimp only
  split <;> simp

theorem keeps_grantInstall (s : State) : Keeps s s.grantInstall := by
  refine keeps_of_map (f := Station.unwatched) (fun r => ?_) rfl rfl
  unfold Station.unwatched
  split <;> exact ⟨rfl, rfl⟩

theorem sound_requestInstall (s : State) : Sound s (execRequestInstall s) := by
  refine sound_workStager fun o => ?_
  exact Keeps.ite (keeps_of_ground (ground_accept _ _ _)) <| Keeps.ite (keeps_of_ground (ground_finish _ _ _ _ _))
    ((keeps_grantInstall s).same (ground_accept _ _ _))

theorem sound_holdMinuteCount (s : State) : Sound s (execHoldMinuteCount s) := by
  refine sound_of_ground ?_
  dsimp only
  repeat' split
  all_goals rfl

theorem sound_commitImage (s : State) : Sound s (execCommitImage s) := by
  refine sound_workStager fun o => keeps_of_ground ?_
  split <;> simp

theorem sound_cancelInstall (s : State) : Sound s (execCancelInstall s) := by
  refine sound_workStager fun o => keeps_of_ground ?_
  split <;> simp

theorem sound_confirmImage (s : State) : Sound s (execConfirmImage s) := by
  refine sound_workStager fun o => keeps_of_ground ?_
  split <;> simp

theorem sound_readFlash (s : State) : Sound s (execReadFlash s) := by
  refine sound_of_ground ?_
  dsimp only
  repeat' split
  all_goals simp

/-! ## Every step -/

theorem sound_exec (c : Instr) (s : State) : Sound s (exec c s) := by
  cases c with
  | powerOn => exact sound_next (keeps_powerOn s)
  | run n => exact sound_of_ground (ground_controlRun s n)
  | reset => exact sound_next (keeps_controlReset s)
  | nudge => exact sound_of_ground (ground_causeLook s)
  | eventsWrite v => exact sound_of_ground rfl
  | areaSizeWrite v => exact sound_of_ground rfl
  | registerWrite offset w v => exact sound_registerWrite offset w v s
  | resetDone => exact sound_resetDone s
  | scanTimerExpiry => exact sound_scanTimerExpiry s
  | look => exact sound_look s
  | takeComplete => exact sound_takeComplete s
  | unknownOrder => exact sound_unknownOrder s
  | answer => exact sound_answer s
  | reportArrival => exact sound_reportArrival s
  | placement => exact sound_placement s
  | busAccessComplete ok d => exact sound_busAccessComplete ok d s
  | busAccessTimeout => exact sound_busAccessTimeout s
  | nop => exact sound_nop s
  | engineInfo => exact sound_engineInfo s
  | readTable => exact sound_readTable s
  | readMore => exact sound_readMore s
  | setPort => exact sound_setPort s
  | portStats => exact sound_portStats s
  | acceptance p f n => exact sound_acceptance p f n s
  | endResolution p => exact sound_endResolution p s
  | flowLookup p => exact sound_flowLookup p s
  | gateCheck p => exact sound_gateCheck p s
  | activityByteCounting p => exact sound_activityByteCounting p s
  | destinationResolution p => exact sound_destinationResolution p s
  | enqueue p => exact sound_enqueue p s
  | rateNotice r m n => exact sound_rateNotice r m n s
  | overheardSample m n => exact sound_of_ground (ground_setListen _ _)
  | linkReady p => exact sound_linkReady p s
  | transmitOpportunity p => exact sound_transmitOpportunity p s
  | transmitCompletion p => exact sound_transmitCompletion p s
  | addressAging => exact sound_addressAging s
  | flowAging => exact sound_flowAging s
  | setRule => exact sound_setRule s
  | clearRule => exact sound_clearRule s
  | setFlowTimes => exact sound_setFlowTimes s
  | setQuiet => exact sound_setQuiet s
  | admitStation => exact sound_admitStation s
  | departStation => exact sound_departStation s
  | setStation => exact sound_setStation s
  | grantBonus => exact sound_grantBonus s
  | setClock => exact sound_setClock s
  | clockInfo => exact sound_clockInfo s
  | minuteEvent => exact sound_minuteEvent s
  | unsetMinuteEvent => exact sound_unsetMinuteEvent s
  | activeMinuteCount => exact sound_activeMinuteCount s
  | dayRollover => exact sound_dayRollover s
  | stateChangeNotice => exact sound_stateChangeNotice s
  | allowanceNotice => exact sound_allowanceNotice s
  | evaluation => exact sound_evaluation s
  | setProfile => exact sound_setProfile s
  | setProgram => exact sound_setProgram s
  | clearProfile => exact sound_clearProfile s
  | pauseProfile => exact sound_pauseProfile s
  | resumeProfile => exact sound_resumeProfile s
  | restartProfile => exact sound_restartProfile s
  | raiseLock => exact sound_raiseLock s
  | setNode => exact sound_setNode s
  | setPeer => exact sound_setPeer s
  | clearPeer => exact sound_clearPeer s
  | meshInfo => exact sound_meshInfo s
  | meshControlFrame => exact sound_meshControlFrame s
  | beaconTimer => exact sound_beaconTimer s
  | peerSilent n => exact sound_peerSilent n s
  | presenceNotice => exact sound_presenceNotice s
  | setRoaming => exact sound_setRoaming s
  | checkEvent => exact sound_checkEvent s
  | signalQuery => exact sound_signalQuery s
  | listenWindowEnd m n => exact sound_listenWindowEnd m n s
  | signalReport => exact sound_signalReport s
  | queryDeadline i => exact sound_queryDeadline i s
  | offer => exact sound_offer s
  | accept => exact sound_accept s
  | decline => exact sound_decline s
  | retryWaitExpiry i => exact sound_retryWaitExpiry i s
  | moveDeadline i => exact sound_moveDeadline i s
  | confirm => exact sound_confirm s
  | settle => exact sound_settle s
  | settleAck => exact sound_settleAck s
  | settleWaitEnd i => exact sound_settleWaitEnd i s
  | graceDeadline i => exact sound_graceDeadline i s
  | arrivalDeadline i => exact sound_arrivalDeadline i s
  | withdraw => exact sound_withdraw s
  | withdrawAck => exact sound_withdrawAck s
  | forceHandoff => exact sound_forceHandoff s
  | slotRecordCheck => exact sound_slotRecordCheck s
  | flashOperationComplete d => exact sound_flashOperationComplete d s
  | flashTimeout => exact sound_flashTimeout s
  | beginStaging => exact sound_beginStaging s
  | stageChunk => exact sound_stageChunk s
  | resumeStaging => exact sound_resumeStaging s
  | cancelStaging => exact sound_cancelStaging s
  | fetchFromPeers => exact sound_fetchFromPeers s
  | batchDeadline => exact sound_batchDeadline s
  | selectionRetry => exact sound_selectionRetry s
  | chunkData => exact sound_chunkData s
  | assemblyTimeout b => exact sound_assemblyTimeout b s
  | chunkNone => exact sound_chunkNone s
  | chunkWant => exact sound_chunkWant s
  | serveStart => exact sound_serveStart s
  | setUpdateWindow => exact sound_setUpdateWindow s
  | requestInstall => exact sound_requestInstall s
  | holdMinuteCount => exact sound_holdMinuteCount s
  | commitImage => exact sound_commitImage s
  | cancelInstall => exact sound_cancelInstall s
  | confirmImage => exact sound_confirmImage s
  | readFlash => exact sound_readFlash s

/-- A step keeps the ranges: it is a command in a state with the same ports and records, or time passes. -/
theorem keeps_step {s t : State} (h : step s = .next t) : Keeps s t := by
  unfold step at h
  split at h
  · next c rest _ =>
    have hpop : Keeps s { s with pending := rest } := keeps_of_ground rfl
    exact hpop.trans (sound_exec c _ t h)
  · unfold idle at h
    split at h
    · exact sound_exec _ s t h
    · exact sound_of_ground (ground_tick s) t h

/-- Settles O8: each command keeps the ranges of the buckets, and those of the deficits with what they rest on. -/
theorem everyStepKeepsBucketsAndDeficitsInRange : Obligations.EveryStepKeepsBucketsAndDeficitsInRange :=
  ⟨fun _ _ hs h => (keeps_step h).bucket hs, fun _ _ hs h => (keeps_step h).round hs⟩

end Sys2Proof.Machine.AirtimeScheduling
end

section
/-!
PROOFS. The orders of the host on a station record, SET_STATION (R88) and GRANT_BONUS (R108): O34.
-/

namespace Sys2Proof.Machine.StationRecords

open Sys2Proof Sys2Proof.Machine Sys2Proof.Machine.FlowClassification

/-! ## The fields of an order -/

theorem clamp_zero (hi n : Nat) : clamp 0 hi n = min hi n := by rw [clamp, Nat.zero_max]

/-- The byte of a profile number names that profile. -/
theorem profileField_val (p : ProfIx) : profileField p.val = some (some p) := by
  have hp : p.val ≠ 255 := by omega
  rw [profileField, if_neg hp, finOf_val, Option.map_some]

theorem profileField_of_gt {n : Nat} (h : 15 < n) (hn : n ≠ 255) : profileField n = none := by
  rw [profileField, if_neg hn, finOf_eq_none_iff.2 h, Option.map_none]

/-! ## The states of a record that its orders tell apart (R88, R108) -/

/-- A record that no order of the host changes for now: in a handoff, RESERVED or LEFT. -/
def Unsettled (g : StaState) : Prop := g ≠ .free ∧ g ≠ .active ∧ g ≠ .watched

theorem unsettled_iff (g : StaState) :
    Unsettled g ↔ g = .offering ∨ g = .moving ∨ g = .withdrawing ∨ g = .reserved ∨ g = .left := by
  cases g <;> simp [Unsettled]

/-! ## SET_STATION (R88) -/

section SetStation
variable {s : State} {o : Order} (ho : s.freshHead .stt 0x32 = some o)
include ho

theorem exec_setStation_of_bad (h : 127 < o.u8 0 ∨ (15 < o.u8 1 ∧ o.u8 1 ≠ 255)) :
    exec .setStation s = .next (s.refuse o .badParam) := by
  change execSetStation s = _
  rw [execSetStation, workOrder_of_some _ ho]
  rcases h with hi | ⟨hp, hne⟩
  · simp only [finOf_eq_none_iff.2 hi]
  · rw [profileField_of_gt hp hne]
    cases finOf 128 (o.u8 0) <;> rfl

variable {i : StaIx} {profile : Option ProfIx} (hi : o.u8 0 = i.val) (hp : profileField (o.u8 1) = some profile)
include hi hp

theorem exec_setStation_of_free (hg : (s.sta i).state = .free) :
    exec .setStation s = .next (s.refuse o .notFound) := by
  change execSetStation s = _
  simp only [execSetStation, workOrder_of_some _ ho, hi, finOf_val, hp, hg]

theorem exec_setStation_of_unsettled (hg : Unsettled (s.sta i).state) :
    exec .setStation s = .next (s.refuse o .again) := by
  change execSetStation s = _
  simp only [execSetStation, workOrder_of_some _ ho, hi, finOf_val, hp]
  rcases (unsettled_iff _).1 hg with hg | hg | hg | hg | hg <;> rw [hg]

/-- A record that serves takes the clamped values, its profiles are told, and its spent flag and gate are computed. -/
theorem exec_setStation_of_serving (hg : (s.sta i).state = .active ∨ (s.sta i).state = .watched) :
    let t := s.setSta i { s.sta i with
      profile := profile, rate := clamp 1 4800 (o.u16 2), used := clamp 0 1440 (o.u16 4), bonus := clamp 0 720 (o.u16 6) }
    let u := ((t.profileChanged (s.sta i).profile profile).recomputeSpent i).recomputeGate i
    exec .setStation s = .next (u.accept o (u.standing i)) := by
  change execSetStation s = _
  simp only [execSetStation, workOrder_of_some _ ho, hi, finOf_val, hp]
  rcases hg with hg | hg <;> simp only [hg]

end SetStation

/-! ## GRANT_BONUS (R108) -/

section GrantBonus
variable {s : State} {o : Order} (ho : s.freshHead .stt 0x33 = some o)
include ho

theorem exec_grantBonus_of_bad (h : 1 < o.u8 0 ∨ (o.u8 0 = 0 ∧ 127 < o.u8 1) ∨ (o.u8 0 = 1 ∧ 15 < o.u8 1)) :
    exec .grantBonus s = .next (s.refuse o .badParam) := by
  change execGrantBonus s = _
  rw [execGrantBonus, workOrder_of_some _ ho]
  dsimp only
  congr 1
  split
  · next h0 hi => have := finOf_some hi; omega
  · next h1 hp => have := finOf_some hp; omega
  · rfl

theorem exec_grantBonus_of_station {i : StaIx} (h0 : o.u8 0 = 0) (hi : o.u8 1 = i.val) :
    exec .grantBonus s = .next (s.grantStation o i (clamp 1 720 (o.u16 2))) := by
  change execGrantBonus s = _
  simp only [execGrantBonus, workOrder_of_some _ ho, h0, hi, finOf_val]

theorem exec_grantBonus_of_profile {p : ProfIx} (h1 : o.u8 0 = 1) (hp : o.u8 1 = p.val) :
    exec .grantBonus s = .next (s.grantProfile o p (clamp 1 720 (o.u16 2))) := by
  change execGrantBonus s = _
  simp only [execGrantBonus, workOrder_of_some _ ho, h1, hp, finOf_val]

end GrantBonus

/-! ### A grant to a station -/

section GrantStation
variable {s : State} {i : StaIx} (o : Order) (minutes : Nat)

theorem grantStation_of_free (hg : (s.sta i).state = .free) : s.grantStation o i minutes = s.refuse o .notFound := by
  simp only [State.grantStation, hg]

theorem grantStation_of_unsettled (hg : Unsettled (s.sta i).state) :
    s.grantStation o i minutes = s.refuse o .again := by
  unfold State.grantStation
  rcases (unsettled_iff _).1 hg with hg | hg | hg | hg | hg <;> simp only [hg]

variable (hg : (s.sta i).state = .active ∨ (s.sta i).state = .watched)
include hg

theorem grantStation_of_unused (hp : ∀ p, (s.sta i).profile = some p → (s.profile p).inUse = false) :
    s.grantStation o i minutes = s.refuse o .refusedState := by
  have key : ∀ q, (s.sta i).profile = q → s.grantStation o i minutes = s.refuse o .refusedState := by
    rintro (_ | p) hq
    · rcases hg with hg | hg <;> simp only [State.grantStation, hg, hq]
    · rcases hg with hg | hg <;> simp only [State.grantStation, hg, hq, hp p hq, Bool.not_false, if_true]
  exact key _ rfl

variable {p : ProfIx} (hp : (s.sta i).profile = some p) (hu : (s.profile p).inUse = true)
include hp hu

theorem grantStation_of_locked (hl : (s.profile p).lock = .fullLocked) :
    s.grantStation o i minutes = s.refuse o .locked := by
  rcases hg with hg | hg <;> simp [State.grantStation, hg, hp, hu, hl]

theorem grantStation_of_open (hl : (s.profile p).lock ≠ .fullLocked) :
    let t := (State.addBonus minutes s i).triggerFor p .grant
    s.grantStation o i minutes = t.accept o ([1, 0] ++ le 2 (t.sta i).bonus ++ [flagByte (t.sta i).spent]) := by
  rcases hg with hg | hg <;> simp [State.grantStation, hg, hp, hu, hl]

end GrantStation

/-! ### A grant to a profile -/

section GrantProfile
variable {s : State} {p : ProfIx} (o : Order) (minutes : Nat)

theorem grantProfile_of_unused (hu : (s.profile p).inUse = false) :
    s.grantProfile o p minutes = s.refuse o .refusedState := by
  simp [State.grantProfile, hu]

variable (hu : (s.profile p).inUse = true)
include hu

theorem grantProfile_of_locked (hl : (s.profile p).lock = .fullLocked) :
    s.grantProfile o p minutes = s.refuse o .locked := by
  simp [State.grantProfile, hu, hl]

theorem grantProfile_of_open (hl : (s.profile p).lock ≠ .fullLocked) :
    s.grantProfile o p minutes =
      ((s.eachSta (Station.grantable p) (State.addBonus minutes)).triggerFor p .grant).accept o
        [byteOf (s.stt.recs.toList.filter (Station.grantable p)).length,
          byteOf (s.stt.recs.toList.filter (Station.skipped p)).length] := by
  simp [State.grantProfile, hu, hl]

end GrantProfile

/-- The records that a grant to a profile reaches, told by their states. -/
theorem grantable_eq (p : ProfIx) :
    Station.grantable p = fun r => [StaState.active, .watched].contains r.state && r.profile == some p := by
  funext r
  rw [Bool.eq_iff_iff]
  simp only [Station.grantable, Bool.and_eq_true, Bool.or_eq_true, beq_iff_eq, List.contains_iff_mem,
    List.mem_cons, List.not_mem_nil, or_false]

theorem skipped_eq (p : ProfIx) :
    Station.skipped p = fun r => [StaState.offering, .moving, .withdrawing].contains r.state && r.profile == some p := by
  funext r
  rw [Bool.eq_iff_iff]
  simp only [Station.skipped, Bool.and_eq_true, Bool.or_eq_true, beq_iff_eq, List.contains_iff_mem,
    List.mem_cons, List.not_mem_nil, or_false, or_assoc]

theorem eachSta_eq_foldl (s : State) (p : Station → Bool) (f : State → StaIx → State) :
    s.eachSta p f = (List.finRange 128).foldl (fun t i => if p (t.sta i) then f t i else t) s := rfl

/-- Settles O34: each order is split by the record's state, and a grant by its profile's use and lock. -/
theorem stationsAreSetAndGrantedBonus : Obligations.StationsAreSetAndGrantedBonus := by
  refine ⟨fun s o ho => ⟨exec_setStation_of_bad ho, fun i profile hi hp => ⟨exec_setStation_of_free ho hi hp,
    fun hf ha hw => exec_setStation_of_unsettled ho hi hp ⟨hf, ha, hw⟩, fun hg => ?_⟩⟩,
    fun n => ⟨fun h => h ▸ rfl, fun p h => h ▸ profileField_val p, profileField_of_gt⟩, fun s => ⟨rfl, fun p => rfl⟩,
    fun s o ho => ⟨exec_grantBonus_of_bad ho, fun i h0 hi => ?_, fun p h1 hp => ?_⟩⟩
  · rw [exec_setStation_of_serving ho hi hp hg, clamp_zero, clamp_zero]
    rfl
  · rw [exec_grantBonus_of_station ho h0 hi]
    refine ⟨fun hg => ?_, fun hf hs => ?_, fun hs hp => ?_, fun p hs hp hu => ⟨fun hl => ?_, fun hl => ?_⟩⟩
    · rw [grantStation_of_free o _ hg]
    · rw [grantStation_of_unsettled o _ ⟨hf, not_or.1 hs⟩]
    · rw [grantStation_of_unused o _ hs hp]
    · rw [grantStation_of_locked o _ hs hp hu hl]
    · rw [grantStation_of_open o _ hs hp hu hl]
      rfl
  · intro counted each
    have heach : each = s.eachSta (Station.grantable p) (State.addBonus (clamp 1 720 (o.u16 2))) := by
      rw [grantable_eq, eachSta_eq_foldl]
      rfl
    rw [exec_grantBonus_of_profile ho h1 hp]
    refine ⟨fun hu => ?_, fun hu hl => ?_, fun hu hl => ?_⟩
    · rw [grantProfile_of_unused o _ hu]
    · rw [grantProfile_of_locked o _ hu hl]
    · rw [grantProfile_of_open o _ hu hl, ← heach, grantable_eq, skipped_eq]
      rfl

end Sys2Proof.Machine.StationRecords
end

section
/-!
PROOFS. Minutes, day rollovers and the notices of the Profile Engine at the records (R91, R92, R105 to R107): O36.
-/

namespace Sys2Proof.Machine.StationRecords

open Sys2Proof Sys2Proof.Machine

/-! ## The gate of a record (R91, R92) -/

/-- Under a profile in use the program state's level holds, lowered to the spent level for a spent record. -/
theorem gateOf_some (s : State) (p : ProfIx) (spent : Bool) :
    let g := (s.profile p).states.get (s.profile p).current
    s.gateOf (some p) spent = if (s.profile p).inUse = false then .opened
      else if spent = true ∧ g.level.code < g.spentLevel.code then g.spentLevel else g.level := by
  cases hu : (s.profile p).inUse with
  | false => simp [State.gateOf, hu]
  | true => cases spent <;> simp [State.gateOf, hu, Gate.lower]

/-- A record whose profile is NONE or not in use has its gate OPEN. -/
theorem gateOf_eq_opened {s : State} {p : Option ProfIx} {spent : Bool}
    (h : p = none ∨ ∃ q, p = some q ∧ (s.profile q).inUse = false) : s.gateOf p spent = .opened := by
  obtain rfl | ⟨q, rfl, hu⟩ := h
  · rfl
  · rw [gateOf_some, if_pos hu]

/-! ## The spent flag of a record (R107) -/

theorem spentNow_iff (s : State) (r : Station) : s.spentNow r = true ↔
    s.sck.set = true ∧ s.allowance r.profile < 1440 ∧ s.allowance r.profile + r.bonus ≤ r.used := by
  simp [State.spentNow, and_assoc]

/-- The spent-change event for the profile of a record. -/
def spentTriggers : Option ProfIx → List Trigger
  | some p => [⟨p, .spentChange, none, none⟩]
  | none => []

theorem spentChange_eq (s : State) (p : Option ProfIx) :
    s.spentChange p = { s with pfe := { s.pfe with triggers := s.pfe.triggers ++ spentTriggers p } } := by
  cases p with
  | none => simp [State.spentChange, spentTriggers]
  | some p => rfl

/-- The byte of a profile in the body of ALLOWANCE_SPENT, NONE as 255 (R167). -/
theorem profileByte_eq (p : Option ProfIx) : profileByte p = match p with
    | some q => BitVec.ofNat 8 q.val
    | none => 255 := by
  cases p <;> rfl

/-- The report of a record that becomes spent, and none of one that no longer is. -/
def spentReports (s : State) (i : StaIx) : List Report :=
  if (s.sta i).spent then [] else [⟨.allowanceSpent, i.val, s.now, s.spentBody (s.sta i)⟩]

theorem recomputeSpent_of_same {s : State} {i : StaIx} (h : s.spentNow (s.sta i) = (s.sta i).spent) :
    s.recomputeSpent i = s := if_pos h

/-- What a change of the spent flag writes, tells and reports; nothing else changes. -/
theorem recomputeSpent_of_change {s : State} {i : StaIx} (h : s.spentNow (s.sta i) = !(s.sta i).spent) :
    s.recomputeSpent i = { s with
      exu := { s.exu with arrivals := s.exu.arrivals ++ spentReports s i }
      stt := { s.stt with recs := put s.stt.recs i { s.sta i with
        spent := !(s.sta i).spent, gate := s.gateOf (s.sta i).profile (!(s.sta i).spent) } }
      pfe := { s.pfe with triggers := s.pfe.triggers ++ spentTriggers (s.sta i).profile } } := by
  have hne : ¬(!(s.sta i).spent) = (s.sta i).spent := by cases (s.sta i).spent <;> decide
  simp only [State.recomputeSpent, h, if_neg hne, spentChange_eq, spentReports]
  cases (s.sta i).spent with
  | true => simp [State.setSta]
  | false => rfl

theorem recomputeSpent_sta {s : State} {i : StaIx} (h : s.spentNow (s.sta i) = !(s.sta i).spent) (j : StaIx) :
    (s.recomputeSpent i).sta j = if j = i then { s.sta i with
      spent := !(s.sta i).spent, gate := s.gateOf (s.sta i).profile (!(s.sta i).spent) } else s.sta j := by
  rw [recomputeSpent_of_change h]
  exact get_put _ _ _ _

/-! ## Minutes and days (R105, R106) -/

/-- A record counts the minute when its bytes reached the threshold of its profile in use, on a clock that is set. -/
theorem countsMinute_eq (s : State) : s.countsMinute = fun r => decide (s.sck.set = true ∧ r.state.serving = true ∧
    ∃ p, r.profile = some p ∧ (s.profile p).inUse = true ∧ (s.profile p).threshold ≤ r.bytes) := by
  funext r
  cases h : r.profile <;> simp [State.countsMinute, h, Bool.and_assoc]

theorem minuteOf_eq (s : State) : s.minuteOf = fun r => if r.state = .free then r
    else { r with used := if s.countsMinute r then min 1440 (r.used + 1) else r.used, bytes := 0 } := rfl

theorem exec_activeMinuteCount {s : State} {e : ClockEvent} {rest : List MinuteKind}
    (h : s.stt.minutes = .minute e :: rest) : exec .activeMinuteCount s =
      .next (s.minuteChanges.foldl State.recomputeSpent
        { s with stt := { s.stt with minutes := rest, recs := s.stt.recs.map s.minuteOf } }) := by
  change execActiveMinuteCount s = _
  simp only [execActiveMinuteCount, h]

theorem exec_dayRollover_of_rollover {s : State} {c : Calendar} {time : Ms} {rest : List MinuteKind}
    (h : s.stt.minutes = .rollover c time :: rest) : exec .dayRollover s = .next (s.rollOver rest c.day false) := by
  change execDayRollover s = _
  simp only [execDayRollover, h]

theorem exec_dayRollover_of_setRollover {s : State} {d : Word} {rest : List MinuteKind}
    (h : s.stt.minutes = .setRollover d :: rest) : exec .dayRollover s = .next (s.rollOver rest d true) := by
  change execDayRollover s = _
  simp only [execDayRollover, h]

/-! ## Notices of the Profile Engine (R92, R117) -/

theorem holds_eq (p : ProfIx) : Station.holds p = fun r => decide (r.state ≠ .free ∧ r.profile = some p) := by
  funext r
  rw [Bool.eq_iff_iff]
  simp only [Station.holds, Bool.and_eq_true, bne_iff_ne, beq_iff_eq, decide_eq_true_iff]

theorem exec_stateChangeNotice {s : State} {p : ProfIx} {rest : List Notice}
    (h : s.stt.notices = .stateChange p :: rest ∨ s.stt.notices = .useChange p :: rest) :
    exec .stateChangeNotice s = .next ((s.noticeTaken rest).eachSta (Station.holds p) State.recomputeGate) := by
  change execStateChangeNotice s = _
  rcases h with h | h <;> simp only [execStateChangeNotice, h]

theorem exec_allowanceNotice {s : State} {p : ProfIx} {rest : List Notice}
    (h : s.stt.notices = .allowance p :: rest) :
    exec .allowanceNotice s = .next ((s.noticeTaken rest).eachSta (Station.holds p) State.recomputeSpent) := by
  change execAllowanceNotice s = _
  simp only [execAllowanceNotice, h]

theorem recomputeAllSpent_eq_foldl (s : State) : s.recomputeAllSpent = (List.finRange 128).foldl (fun t i =>
    if (t.sta i).state = .free then t else t.recomputeSpent i) s := by
  simp [State.recomputeAllSpent, eachSta_eq_foldl]

/-- Settles O36: the spent flag and the gate by what a record's profile says, the events by the kind at the front. -/
theorem minutesAndNoticesReachTheRecords : Obligations.MinutesAndNoticesReachTheRecords := by
  refine ⟨fun s e rest h => ?_, fun s c time rest h => ?_, fun s d rest h => ?_, recomputeAllSpent_eq_foldl,
    fun s i => ?_, ⟨fun s p rest h => ?_, fun s p rest h => ?_, fun s i => ⟨fun p hp hu => ?_, fun h => ?_⟩⟩,
    fun s spent => ⟨rfl, fun p => ?_⟩, eachSta_eq_foldl⟩
  · rw [exec_activeMinuteCount h, State.minuteChanges, minuteOf_eq, countsMinute_eq]
  · rw [exec_dayRollover_of_rollover h]; rfl
  · rw [exec_dayRollover_of_setRollover h]; rfl
  · intro r allowance spent t
    have hallow : allowance = s.allowance r.profile := by
      simp only [allowance, State.allowance]
      cases r.profile <;> rfl
    have hspent : s.spentNow r = true ↔ spent := by
      simp only [spentNow_iff, spent, hallow]
    by_cases hb : s.spentNow r = r.spent
    · have ht : t = s := recomputeSpent_of_same hb
      have hsame : r.spent = true ↔ spent := by rw [← hspent, hb]
      rw [ht]
      exact ⟨hsame, fun _ => rfl, fun hn => absurd hsame hn, fun _ _ => rfl, rfl⟩
    · have hc : s.spentNow r = !r.spent := Bool.eq_not.2 hb
      have ht : t = _ := recomputeSpent_of_change hc
      have hsta := recomputeSpent_sta hc
      have hchange : ¬(r.spent = true ↔ spent) := by
        rw [← hspent, hc]
        simp
      refine ⟨?_, fun hs => absurd hs hchange, fun _ => ⟨?_, ?_, ?_⟩, fun j hj => ?_, ?_⟩
      · rw [show t.sta i = _ from hsta i, if_pos rfl, ← hspent, hc]
      · exact (hsta i).trans (if_pos rfl)
      · rw [ht]
        rfl
      · rw [ht, hallow]
        simp only [spentReports, State.spentBody, profileByte_eq]
        rfl
      · exact (hsta j).trans (if_neg hj)
      · rw [ht]
  · rw [exec_stateChangeNotice h, holds_eq]; rfl
  · rw [exec_allowanceNotice h, holds_eq]; rfl
  · simp only [State.recomputeGate, hp, gateOf_some, hu, Bool.true_eq_false, if_false]
  · rw [State.recomputeGate, gateOf_eq_opened h]
  · exact gateOf_some s p spent

end Sys2Proof.Machine.StationRecords
end

section
/-!
PROOFS. The listen list of the target of a query, and the report at the end of a window (R85, R139, R151): O44.
-/

namespace Sys2Proof.Machine.StationRecords

open Sys2Proof Sys2Proof.Machine Sys2Proof.Machine.FlowClassification

/-- The first element that satisfies `p` is taken out of its place. -/
theorem takeFirst_append {p : α → Bool} {before : List α} {x : α} (after : List α) (hb : ∀ y ∈ before, p y = false)
    (hx : p x = true) : takeFirst p (before ++ x :: after) = some (x, before ++ after) := by
  induction before with
  | nil => simp [takeFirst, hx]
  | cons y ys ih =>
    obtain ⟨hy, hys⟩ := List.forall_mem_cons.1 hb
    simp [takeFirst, hy, ih hys]

/-! ## SIGNAL_QUERY (R139) -/

/-- A node is already listened for with a MAC. -/
def Listened (s : State) (mac : Mac) (n : Node) : Prop := ∃ e ∈ s.hoc.listen, e.mac = mac ∧ e.node = n

theorem listened_iff (s : State) (mac : Mac) (n : Node) :
    (s.hoc.listen.any fun e => e.mac == mac && e.node == n) = true ↔ Listened s mac n := by
  simp [Listened, List.any_eq_true]

section Query
variable {s : State} {m : Msg} {rest : List Msg} (hm : s.hoc.messages = m :: rest) (hk : m.kind = kSignalQuery)
include hm hk

theorem exec_signalQuery_of_listened (h : Listened s (macAt m.body 0) m.sender) :
    exec .signalQuery s = .next { s with hoc := { s.hoc with messages := rest } } := by
  change execSignalQuery s = _
  rw [execSignalQuery, workMessage_of_cons _ hm hk]
  exact congrArg _ (if_pos ((listened_iff s _ _).2 h))

variable (h : ¬Listened s (macAt m.body 0) m.sender)
include h

theorem exec_signalQuery_of_full (hl : 8 ≤ s.hoc.listen.length) :
    let t := { s with hoc := { s.hoc with messages := rest } }
    exec .signalQuery s = .next (t.sendTo m.sender kSignalReport (t.reportBody (macAt m.body 0) none true)) := by
  change execSignalQuery s = _
  rw [execSignalQuery, workMessage_of_cons _ hm hk]
  exact congrArg _ ((if_neg (mt (listened_iff s _ _).1 h)).trans (if_pos hl))

theorem exec_signalQuery_of_room (hl : s.hoc.listen.length < 8) :
    exec .signalQuery s = .next (State.setListen { s with hoc := { s.hoc with messages := rest } }
      (s.hoc.listen ++ [⟨macAt m.body 0, m.sender, after s.now (clamp 100 1000 (beAt m.body 6 2)), none⟩])) := by
  change execSignalQuery s = _
  rw [execSignalQuery, workMessage_of_cons _ hm hk]
  exact congrArg _ ((if_neg (mt (listened_iff s _ _).1 h)).trans (if_neg (Nat.not_le.2 hl)))

end Query

/-! ## The end of a listen window (R139) and its report (R85, R151) -/

theorem exec_listenWindowEnd {s : State} {mac : Mac} {n : Node} {e : Listen} {before after : List Listen}
    (hs : s.hoc.listen = before ++ e :: after) (hmac : e.mac = mac) (hn : e.node = n)
    (hb : ∀ x ∈ before, ¬(x.mac = mac ∧ x.node = n)) :
    exec (.listenWindowEnd mac n) s = .next (if reached s.sck.ms e.until_ then
      (s.setListen (before ++ after)).sendTo n kSignalReport (s.reportBody mac e.average false) else s) := by
  have htake : takeFirst (fun x => x.mac == mac && x.node == n) s.hoc.listen = some (e, before ++ after) := by
    rw [hs]
    exact takeFirst_append after (fun y hy => by simpa using hb y hy) (by simp [hmac, hn])
  change execListenWindowEnd mac n s = _
  simp only [execListenWindowEnd, htake]
  rfl

/-- The body of SIGNAL_REPORT: the level, the load and the two flags as R171 lays them out. -/
theorem reportBody_eq (s : State) (mac : Mac) (heard : Option Int) (busy : Bool) :
    s.reportBody mac heard busy = macBytes mac ++ be 2 (signalCode heard) ++
      [byteOf (s.stt.recs.toList.filter fun r => r.state != .free && r.state != .left).length,
        byteOf ((if s.ups.state = .hold then 1 else 0) + if busy then 2 else 0)] := by
  simp only [State.reportBody, load_eq, holding_iff]

/-- Settles O44: a query is split by the listen list, and a window's end takes the first entry of its MAC and node. -/
theorem listeningAnswersItsRequester : Obligations.ListeningAnswersItsRequester := by
  refine ⟨fun s m rest hm hk => ⟨exec_signalQuery_of_listened hm hk, exec_signalQuery_of_full hm hk,
    exec_signalQuery_of_room hm hk⟩, fun s mac heard busy => ?_, fun s mac n e before after hs hmac hn hb => ?_,
    fun s l => rfl⟩
  · rw [reportBody_eq]
    cases heard <;> rfl
  · rw [exec_listenWindowEnd hs hmac hn hb]
    exact ⟨fun h => by rw [if_pos h], fun h => by rw [h]; rfl⟩

end Sys2Proof.Machine.StationRecords
end

section
/-!
PROOFS. The orders of the Schedule Clock and its minute events (R98 to R102): O35.
-/

namespace Sys2Proof.Machine.ScheduleClock

open Sys2Proof Sys2Proof.Machine Sys2Proof.Machine.FlowClassification

/-! ## What follows the setting of the calendar (R101) -/

section ClockSet
variable (s : State) {old day : Word}

theorem clockSet_of_later (h : old < day) : s.clockSet true old day =
    (State.triggerAll { s with stt := { s.stt with minutes := s.stt.minutes ++ [.setRollover day] } }
      .setRollover none).recomputeAllSpent := by
  simp only [State.clockSet, h, decide_true, Bool.and_true, if_true]

theorem clockSet_of_not_later (h : ¬old < day) :
    s.clockSet true old day = (s.triggerAll .clockChange none).recomputeAllSpent := by
  simp only [State.clockSet, h, decide_false, Bool.and_false, Bool.false_eq_true, if_false, if_true]

theorem clockSet_of_unset :
    s.clockSet false old day = ((s.stampAll day).triggerAll .clockChange none).recomputeAllSpent := by
  simp only [State.clockSet, Bool.false_and, Bool.false_eq_true, if_false]

end ClockSet

/-- The records that a day stamp reaches are those in use that hold UNSTAMPED. -/
theorem stampAll_eq (s : State) (day : Word) : s.stampAll day = { s with stt := { s.stt with
    recs := s.stt.recs.map fun (r : Station) =>
      if r.state ≠ StaState.free ∧ r.day = none then { r with day := some day } else r } } := by
  simp only [State.stampAll, Bool.and_eq_true, bne_iff_ne, Option.isNone_iff_eq_none]

/-! ## SET_CLOCK (R101) -/

/-- The clock that a SET_CLOCK with fields in range leaves: the boundaries reached and not yet given are gone. -/
def setTo (c : Sck) (o : Order) (weekday : Fin 7) : Sck :=
  { c with
    set := true, day := BitVec.ofNat 32 (o.u32 0), weekday := weekday, minute := o.u16 5, second := o.u8 7, phase := 0
    minuteDue := false, unsetDue := false }

section SetClock
variable {s : State} {o : Order} (ho : s.freshHead .sck 0x40 = some o)
include ho

theorem exec_setClock_of_bad (h : 6 < o.u8 4 ∨ 1439 < o.u16 5 ∨ 59 < o.u8 7) :
    exec .setClock s = .next (s.refuse o .badParam) := by
  change execSetClock s = _
  rw [execSetClock, workOrder_of_some _ ho]
  rcases h with hw | h
  · simp only [finOf_eq_none_iff.2 hw]
  · cases finOf 7 (o.u8 4) with
    | none => rfl
    | some weekday => simp only [if_pos h]

variable {weekday : Fin 7} (hw : weekday.val = o.u8 4) (hm : o.u16 5 ≤ 1439) (hs : o.u8 7 ≤ 59)
include hw hm hs

theorem exec_setClock_of_range :
    let day : Word := BitVec.ofNat 32 (o.u32 0)
    exec .setClock s = .next
      ((State.clockSet { s with sck := setTo s.sck o weekday } s.sck.set s.sck.day day).accept o
        ([flagByte (s.sck.set && decide (s.sck.day < day)), flagByte (!s.sck.set)] ++
          le 4 (if s.sck.set then s.sck.day.toNat else 0))) := by
  have hr : ¬(1439 < o.u16 5 ∨ 59 < o.u8 7) := by omega
  change execSetClock s = _
  simp only [execSetClock, workOrder_of_some _ ho, ← hw, finOf_val, if_neg hr]
  rfl

theorem exec_setClock_of_later (hset : s.sck.set = true) (hd : s.sck.day < BitVec.ofNat 32 (o.u32 0)) :
    exec .setClock s = .next ((State.triggerAll { s with
        sck := setTo s.sck o weekday
        stt := { s.stt with minutes := s.stt.minutes ++ [.setRollover (BitVec.ofNat 32 (o.u32 0))] } }
      .setRollover none).recomputeAllSpent.accept o ([1, 0] ++ le 4 s.sck.day.toNat)) := by
  rw [exec_setClock_of_range ho hw hm hs, hset, clockSet_of_later _ hd, decide_eq_true hd]
  rfl

theorem exec_setClock_of_not_later (hset : s.sck.set = true) (hd : ¬s.sck.day < BitVec.ofNat 32 (o.u32 0)) :
    exec .setClock s = .next ((State.triggerAll { s with sck := setTo s.sck o weekday }
      .clockChange none).recomputeAllSpent.accept o ([0, 0] ++ le 4 s.sck.day.toNat)) := by
  rw [exec_setClock_of_range ho hw hm hs, hset, clockSet_of_not_later _ hd, decide_eq_false hd]
  rfl

theorem exec_setClock_of_unset (hset : s.sck.set = false) :
    exec .setClock s = .next (((State.stampAll { s with sck := setTo s.sck o weekday }
      (BitVec.ofNat 32 (o.u32 0))).triggerAll .clockChange none).recomputeAllSpent.accept o ([0, 1] ++ le 4 0)) := by
  rw [exec_setClock_of_range ho hw hm hs, hset, clockSet_of_unset]
  rfl

end SetClock

/-! ## CLOCK_INFO (R102) -/

theorem exec_clockInfo {s : State} {o : Order} (ho : s.freshHead .sck 0x41 = some o) :
    exec .clockInfo s = .next (s.accept o s.sck.info) :=
  workOrder_of_some (fun o t => t.accept o t.sck.info) ho

/-! ## Minute events (R98 to R100) -/

theorem nextMinute_of_lt {c : Sck} (h : c.minute < 1439) :
    c.nextMinute = { c with minute := c.minute + 1, second := 0, minuteDue := false } :=
  if_pos (by omega)

theorem nextMinute_of_midnight {c : Sck} (h : c.minute = 1439) : c.nextMinute =
    { c with minute := 0, second := 0, minuteDue := false, day := c.day + 1, weekday := c.weekday + 1 } :=
  if_neg (by omega)

section MinuteEvent
variable {s : State} (hd : s.sck.minuteDue = true)
include hd

theorem exec_minuteEvent_of_lt (h : s.sck.minute < 1439) :
    let e : ClockEvent := ⟨some s.sck.nextMinute.calendar, s.now⟩
    exec .minuteEvent s = .next (State.giveMinute { s with sck := s.sck.nextMinute } (.minute e) .minute e) := by
  have hr : (s.sck.minute + 1 == 1440) = false := beq_false_of_ne (by omega)
  have hms : s.sck.nextMinute.ms = s.sck.ms := by rw [nextMinute_of_lt h]
  change execMinuteEvent s = _
  simp only [execMinuteEvent, hd, hr, State.now, hms, if_true, Bool.false_eq_true, if_false]

theorem exec_minuteEvent_of_midnight (h : s.sck.minute = 1439) :
    let c := s.sck.nextMinute.calendar
    exec .minuteEvent s = .next
      (State.giveMinute { s with sck := s.sck.nextMinute } (.rollover c s.now) .rollover ⟨some c, s.now⟩) := by
  have hms : s.sck.nextMinute.ms = s.sck.ms := by rw [nextMinute_of_midnight h]
  change execMinuteEvent s = _
  simp only [execMinuteEvent, hd, h, State.now, hms, if_true, beq_self_eq_true]

end MinuteEvent

theorem exec_unsetMinuteEvent {s : State} (hd : s.sck.unsetDue = true) :
    exec .unsetMinuteEvent s = .next
      (State.giveMinute { s with sck := { s.sck with unsetDue := false, unsetCount := 0 } }
        (.minute ⟨none, s.now⟩) .minute ⟨none, s.now⟩) := by
  change execUnsetMinuteEvent s = _
  simp only [execUnsetMinuteEvent, hd, if_true]

/-- Settles O35: SET_CLOCK is split by its fields' ranges, whether the clock was set and the day it held; a minute event
by whether its boundary is midnight. -/
theorem clockIsSetReadAndAdvanced : Obligations.ClockIsSetReadAndAdvanced := by
  refine ⟨fun s o ho => ⟨exec_setClock_of_bad ho, fun weekday hw hm hs => ⟨exec_setClock_of_later ho hw hm hs,
    exec_setClock_of_not_later ho hw hm hs, fun hset => ?_⟩⟩, fun s o ho => exec_clockInfo ho,
    fun s hd h => ?_, fun s hd h => ?_, fun s hd => exec_unsetMinuteEvent hd⟩
  · rw [exec_setClock_of_unset ho hw hm hs hset, stampAll_eq]
    rfl
  · rw [exec_minuteEvent_of_lt hd h, nextMinute_of_lt h]
    rfl
  · rw [exec_minuteEvent_of_midnight hd h, nextMinute_of_midnight h]
    rfl

end Sys2Proof.Machine.ScheduleClock
end

section
/-!
PROOFS. Windows and the conditions of a program (R112, R114): O40 and what O39 says of the conditions.
-/

namespace Sys2Proof.Machine.ProfilePrograms

open Sys2Proof Sys2Proof.Machine Sys2Proof.Machine.FlowClassification

/-! ## Vectors as lists -/

theorem all_toList_iff {v : Vector α n} {p : α → Bool} : v.toList.all p = true ↔ ∀ i, p (v.get i) = true := by
  rw [Vector.all_toList, Vector.all_eq_true]
  exact ⟨fun h i => h i.val i.isLt, fun h i hi => h ⟨i, hi⟩⟩

theorem any_toList_iff {v : Vector α n} {p : α → Bool} : v.toList.any p = true ↔ ∃ i, p (v.get i) = true := by
  rw [Vector.any_toList, Vector.any_eq_true]
  exact ⟨fun ⟨i, hi, h⟩ => ⟨⟨i, hi⟩, h⟩, fun ⟨i, h⟩ => ⟨i.val, i.isLt, h⟩⟩

theorem all_isSome_ofFn {n : Nat} {f : Fin n → Option α} :
    (Vector.ofFn f).toList.all Option.isSome = true ↔ ∀ i, (f i).isSome = true := by
  simp only [all_toList_iff, get_ofFn]

/-! ## Windows (R112) -/

section OpenAt
variable {w : Window} (d : Fin 7) (m : Nat)

theorem openAt_of_lt (h : w.start < w.stop) :
    w.openAt d m = true ↔ w.mask.getLsbD d.val = true ∧ w.start ≤ m ∧ m < w.stop := by
  simp [Window.openAt, if_pos h, and_assoc]

/-- A window that runs over midnight is open on the evening of its weekday and the morning after it. -/
theorem openAt_of_gt (h : w.stop < w.start) : w.openAt d m = true ↔
    (w.mask.getLsbD d.val = true ∧ w.start ≤ m) ∨ (w.mask.getLsbD ((d.val + 6) % 7) = true ∧ m < w.stop) := by
  simp [Window.openAt, if_neg (Nat.lt_asymm h), if_pos h]

theorem openAt_of_eq (h : w.start = w.stop) : w.openAt d m = false := by
  rw [Window.openAt, if_neg (Nat.not_lt.2 (Nat.le_of_eq h.symm)), if_neg (Nat.not_lt.2 (Nat.le_of_eq h))]

end OpenAt

theorem windowOpen_of_unset {s : State} (h : s.sck.set = false) (w : Window) (cal : Fin 7 × Nat) :
    s.windowOpen w cal = false := by
  rw [State.windowOpen, h, Bool.false_and]

theorem windowOpen_of_set {s : State} (h : s.sck.set = true) (w : Window) (cal : Fin 7 × Nat) :
    s.windowOpen w cal = w.openAt cal.1 cal.2 := by
  rw [State.windowOpen, h, Bool.true_and]

/-- Settles O40: the test is split by the clock and by how the window's start stands to its end. -/
theorem windowTestFollowsStartAndEnd : Obligations.WindowTestFollowsStartAndEnd := by
  refine fun s w d m => ⟨fun hu => windowOpen_of_unset hu w _, fun hs => ?_⟩
  rw [windowOpen_of_set hs]
  exact ⟨openAt_of_lt d m, openAt_of_gt d m, openAt_of_eq d m⟩

/-! ## Conditions (R114) -/

theorem dayStart_iff (c : Cause) : c.dayStart = true ↔ c = .rollover ∨ c = .setRollover := by
  cases c <;> simp [Cause.dayStart]

/-- A record serves unless it is FREE, LEFT or RESERVED (R83). -/
theorem serving_iff_not (g : StaState) : g.serving = true ↔ g ≠ .free ∧ g ≠ .left ∧ g ≠ .reserved := by
  cases g <;> simp [StaState.serving]

theorem anySpent_iff (s : State) (p : ProfIx) : s.anySpent p = true ↔
    ∃ i, (s.sta i).state ≠ .free ∧ (s.sta i).state ≠ .left ∧ (s.sta i).state ≠ .reserved ∧
      (s.sta i).profile = some p ∧ (s.sta i).spent = true := by
  simp only [State.anySpent, any_toList_iff, Bool.and_eq_true, beq_iff_eq, serving_iff_not, and_assoc]
  rfl

theorem calendarOf_eq (s : State) (e : Option ClockEvent) : s.calendarOf e = match e.bind ClockEvent.calendar with
    | some c => (c.weekday, c.minute)
    | none => (s.sck.weekday, s.sck.minute) := by
  unfold State.calendarOf
  cases e.bind ClockEvent.calendar <;> rfl

/-- The ways of Table 7-4, cause by cause. -/
theorem cause_path_iff (c : Cause) :
    (c.path = .clock ↔ c = .minute ∨ c = .rollover ∨ c = .setRollover ∨ c = .clockChange) ∧
    (c.path = .station ↔ c = .spentChange ∨ c = .membership ∨ c = .grant) ∧
    (c.path = .order ↔ c = .setProfile ∨ c = .setProgram ∨ c = .pause ∨ c = .resume ∨ c = .restart) := by
  cases c <;> simp [Cause.path]

/-! ## The first eligible transition (R116 step 1) -/

/-- The transition at a place of a state's list is enabled and its condition holds. -/
def Takes (holds : Cond → Bool) (x : ProgState) (k : Fin 4) : Prop :=
  (x.transitions.get k).enabled = true ∧ holds (x.transitions.get k).cond = true

theorem firstEligible_spec (holds : Cond → Bool) (x : ProgState) :
    (∀ k, firstEligible holds x = some k ↔ Takes holds x k ∧ ∀ j < k, ¬Takes holds x j) ∧
    (firstEligible holds x = none ↔ ∀ k, ¬Takes holds x k) :=
  firstIx_spec (Takes holds x) fun _ => Bool.and_eq_true_iff

end Sys2Proof.Machine.ProfilePrograms
end

section
/-!
PROOFS. The evaluation of a trigger: which one is taken, the path of its moves, its reports and its answer (R115 to
R119): O39.
-/

namespace Sys2Proof.Machine.ProfilePrograms

open Sys2Proof Sys2Proof.Machine

/-! ## The path of the moves (R116) -/

section Path
variable (holds : Cond → Bool) (x : Profile)

/-- The transition a program state takes, if it takes one. -/
def eligible (c : Fin 6) : Option (Fin 4) := firstEligible holds (x.states.get c)

/-- The program state after one move; a state with no transition to take keeps its place. -/
def nextState (c : Fin 6) : Fin 6 := match eligible holds x c with
  | some k => ((x.states.get c).transitions.get k).dest
  | none => c

theorem nextState_of_some {c : Fin 6} {k : Fin 4} (h : eligible holds x c = some k) :
    nextState holds x c = ((x.states.get c).transitions.get k).dest := by
  rw [nextState, h]

/-- The program state reached after a number of moves. -/
def path (n : Nat) (c : Fin 6) : Fin 6 := Nat.repeat (nextState holds x) n c

/-- A path goes on from its first move as from a start of its own. -/
theorem path_succ (n : Nat) (c : Fin 6) : path holds x (n + 1) c = path holds x n (nextState holds x c) := by
  induction n with
  | zero => rfl
  | succ n ih => exact congrArg (nextState holds x) ih

end Path

section Moves
variable (t : Trigger) (x : Profile) (holds : Cond → Bool) (began : Fin 6)

/-- The report of the move that reaches a program state, with the number of the move (R118). -/
def moveReport (time : Ms) (reached : Fin 6) (number : Nat) : Report :=
  ⟨.profileState, t.profile.val, time, stateBody x reached began number t.cause⟩

/-- The report of a transition that would be taken after the last permitted move (R118). -/
def cycleReports (time : Ms) (c : Fin 6) : List Report := match eligible holds x c with
  | none => []
  | some k => [⟨.profileCycle, t.profile.val, time,
      cycleBody c began k ((x.states.get c).transitions.get k).dest t.cause⟩]

/-- The reports of `m` moves from a program state, after `made` moves before them, and of the cycle they end in. -/
def pathReports (time : Ms) (made m : Nat) (c : Fin 6) : List Report :=
  (List.range m).map (fun n => moveReport t x began time (path holds x (n + 1) c) (made + n + 1))
    ++ cycleReports t x holds began time (path holds x m c)

theorem pathReports_zero (time : Ms) (made : Nat) (c : Fin 6) :
    pathReports t x holds began time made 0 c = cycleReports t x holds began time c := rfl

/-- The first move's report goes before those of the moves that follow it. -/
theorem pathReports_succ (time : Ms) (made m : Nat) (c : Fin 6) : pathReports t x holds began time made (m + 1) c =
    moveReport t x began time (nextState holds x c) (made + 1) ::
      pathReports t x holds began time (made + 1) m (nextState holds x c) := by
  simp only [pathReports, List.range_succ_eq_map, List.map_cons, List.map_map, List.cons_append, path_succ]
  congr 2
  refine List.map_congr_left fun n _ => ?_
  simp only [Function.comp_apply, path_succ, Nat.succ_eq_add_one]
  congr 1
  omega

/-- A path of `m` moves is the one an evaluation takes that may still make `left`. -/
def IsPath (left m : Nat) (c : Fin 6) : Prop :=
  m ≤ left ∧ (∀ n < m, (eligible holds x (path holds x n c)).isSome = true) ∧
    (m < left → eligible holds x (path holds x m c) = none)

theorem isPath_succ {left m : Nat} {c : Fin 6} (hc : (eligible holds x c).isSome = true)
    (h : IsPath x holds left m (nextState holds x c)) : IsPath x holds (left + 1) (m + 1) c := by
  obtain ⟨hle, hsome, hnone⟩ := h
  refine ⟨Nat.succ_le_succ hle, fun n hn => ?_, fun hlt => ?_⟩
  · cases n with
    | zero => exact hc
    | succ n => rw [path_succ]; exact hsome n (Nat.lt_of_succ_lt_succ hn)
  · rw [path_succ]
    exact hnone (Nat.lt_of_succ_lt_succ hlt)

/-- With no transition to take, the moves end where they stand. -/
theorem moves_of_none (left : Nat) {c : Fin 6} (s : State) (h : eligible holds x c = none) :
    moves t x holds began left c s = (s, c) := by
  rw [eligible] at h
  unfold moves
  rw [h]

theorem moves_zero_of_some {c : Fin 6} {k : Fin 4} (s : State) (h : eligible holds x c = some k) :
    moves t x holds began 0 c s = (s.giveReport .profileCycle t.profile.val
      (cycleBody c began k ((x.states.get c).transitions.get k).dest t.cause), c) := by
  rw [eligible] at h
  unfold moves
  rw [h]

theorem moves_succ_of_some (left : Nat) {c : Fin 6} {k : Fin 4} (s : State) (h : eligible holds x c = some k) :
    moves t x holds began (left + 1) c s = moves t x holds began left (nextState holds x c)
      (s.giveReport .profileState t.profile.val
        (stateBody x (nextState holds x c) began (Config.maxMoves - left) t.cause)) := by
  rw [nextState_of_some holds x h]
  rw [eligible] at h
  conv => lhs; unfold moves
  rw [h]

/-- The moves of an evaluation follow the path of its conditions, and give its reports and nothing else. -/
theorem moves_eq_path (left made : Nat) (hsum : made + left = Config.maxMoves) (c : Fin 6) (s : State) :
    ∃ m, IsPath x holds left m c ∧ moves t x holds began left c s =
      ({ s with exu := { s.exu with
          arrivals := s.exu.arrivals ++ pathReports t x holds began s.sck.ms made m c } }, path holds x m c) := by
  induction left generalizing made c s with
  | zero =>
    refine ⟨0, ⟨Nat.le_refl 0, fun n hn => absurd hn n.not_lt_zero, fun hn => absurd hn (Nat.lt_irrefl 0)⟩, ?_⟩
    rw [pathReports_zero]
    cases he : eligible holds x c with
    | none =>
      rw [moves_of_none _ _ _ _ _ _ he, cycleReports, he, List.append_nil]
      rfl
    | some k =>
      rw [moves_zero_of_some _ _ _ _ _ he, cycleReports, he]
      rfl
  | succ left ih =>
    cases he : eligible holds x c with
    | none =>
      refine ⟨0, ⟨Nat.zero_le _, fun n hn => absurd hn n.not_lt_zero, fun _ => he⟩, ?_⟩
      rw [moves_of_none _ _ _ _ _ _ he, pathReports_zero, cycleReports, he, List.append_nil]
      rfl
    | some k =>
      have hnumber : Config.maxMoves - left = made + 1 := by omega
      obtain ⟨m, hm, hmoves⟩ := ih (made + 1) (by omega) (nextState holds x c)
        (s.giveReport .profileState t.profile.val (stateBody x (nextState holds x c) began (made + 1) t.cause))
      refine ⟨m + 1, isPath_succ x holds (by rw [he]; rfl) hm, ?_⟩
      rw [moves_succ_of_some _ _ _ _ _ _ he, hnumber, hmoves, pathReports_succ, path_succ, ← List.singleton_append,
        ← List.append_assoc]
      rfl

end Moves

/-! ## The evaluation -/

/-- An evaluation reports the path of its moves, keeps the state reached, and tells the stations of a changed one. -/
theorem evaluate_eq (s : State) (t : Trigger) :
    let x := s.profile t.profile
    let holds := s.condHolds t x
    ∃ m, IsPath x holds Config.maxMoves m x.current ∧ s.evaluate t = { s with
      exu := { s.exu with
        arrivals := s.exu.arrivals ++ pathReports t x holds x.current s.sck.ms 0 m x.current }
      pfe := { s.pfe with profiles := put s.pfe.profiles t.profile { x with current := path holds x m x.current } }
      stt := { s.stt with notices := if path holds x m x.current = x.current then s.stt.notices
        else s.stt.notices ++ [.stateChange t.profile] } } := by
  intro x holds
  obtain ⟨m, hm, hmoves⟩ := moves_eq_path t x holds x.current Config.maxMoves 0 (Nat.zero_add _) x.current s
  refine ⟨m, hm, ?_⟩
  simp only [State.evaluate]
  rw [show moves t (s.profile t.profile) (s.condHolds t (s.profile t.profile)) _ _ _ s = _ from hmoves]
  by_cases hsame : path holds x m x.current = x.current
  · rw [if_pos hsame, if_pos hsame]
    rfl
  · rw [if_neg hsame, if_neg hsame]
    rfl

theorem exec_evaluation_of_none {s : State} (h : s.pfe.triggers = []) : exec .evaluation s = .next s := by
  change execEvaluation s = _
  rw [execEvaluation, h]
  rfl

theorem exec_evaluation_of_some {s : State} {t : Trigger} {rest : List Trigger}
    (h : nextTrigger s.freeWay s.pfe.triggers = some (t, rest)) :
    let u := { s with pfe := { s.pfe with triggers := rest, taken := s.pfe.taken + 1 } }
    exec .evaluation s =
      .next ((if (s.profile t.profile).inUse then u.evaluate t else u).reply t.profile t.reply) := by
  change execEvaluation s = _
  rw [execEvaluation, h]
  rfl

theorem reply_eq (s : State) (p : ProfIx) (r : Option Reply) : s.reply p r = match r with
    | some r => s.finish r.order .ok 0 (r.before ++ [BitVec.ofNat 8 (s.profile p).current.val] ++ r.after)
    | none => s := by
  cases r <;> rfl

/-- Settles O39: the trigger by the free way, the moves by the path of the conditions' values at the start. -/
theorem evaluationMovesAtMostSixTimes : Obligations.EvaluationMovesAtMostSixTimes := by
  refine ⟨fun s h => exec_evaluation_of_none h, fun s t rest h => ?_,
    fun way => ⟨fun before t after ht hb => nextTrigger_of_way ht hb,
      fun first rest h => nextTrigger_of_none (takeTrigger_eq_none.2 h)⟩,
    cause_path_iff, fun s t => ?_, fun holds x => ?_, fun s t x => ?_⟩
  · exact (exec_evaluation_of_some h).trans (congrArg _ (reply_eq _ _ _))
  · obtain ⟨m, ⟨hle, hsome, hnone⟩, heval⟩ := evaluate_eq s t
    refine ⟨m, hle, hsome, hnone, ?_⟩
    rw [heval]
    simp only [pathReports, Nat.zero_add, List.append_assoc]
    rfl
  · exact (firstEligible_spec holds x).symm
  · exact ⟨fun w => ⟨congrArg (s.windowOpen (x.windows.get w)) (calendarOf_eq s t.event), rfl⟩, rfl, rfl,
      dayStart_iff t.cause, anySpent_iff s t.profile, rfl⟩

end Sys2Proof.Machine.ProfilePrograms
end

section
/-!
PROOFS. The orders that pause, resume and lock a profile (R120, R122): O38, with what the orders on a profile share.
-/

namespace Sys2Proof.Machine.ProfilePrograms

open Sys2Proof Sys2Proof.Machine Sys2Proof.Machine.FlowClassification

/-! ## Orders on a profile (R122) -/

section WorkProfile
variable {s : State} {o : Order} {k : Byte} (f : Order → ProfIx → State → State) (ho : s.freshHead .pfe k = some o)
include ho

theorem workProfile_of_gt (h : 15 < o.u8 0) : workProfile k f s = .next (s.refuse o .badParam) := by
  rw [workProfile, workOrder_of_some _ ho, finOf_eq_none_iff.2 h]

theorem workProfile_of_val {p : ProfIx} (h : o.u8 0 = p.val) : workProfile k f s = .next (f o p s) := by
  rw [workProfile, workOrder_of_some _ ho, h, finOf_val]

end WorkProfile

theorem refusesWrite_iff (l : Lock) : l.refusesWrite = true ↔ l ≠ .unlocked := by simp [Lock.refusesWrite]

theorem refusesWrite_of_unlocked {l : Lock} (h : l = .unlocked) : l.refusesWrite = false := h ▸ rfl

theorem refusesControl_iff (l : Lock) : l.refusesControl = true ↔ l = .fullLocked := by simp [Lock.refusesControl]

theorem thenEvaluate_of_inUse {s : State} {o : Order} {p : ProfIx} (c : Cause) (before after : List Byte)
    (h : (s.profile p).inUse = true) : s.thenEvaluate o p c before after =
      State.trigger (s.mark o.id .working) ⟨p, c, none, some ⟨o.id, before, after⟩⟩ := if_pos h

theorem thenEvaluate_of_unused {s : State} {o : Order} {p : ProfIx} (c : Cause) (before after : List Byte)
    (h : (s.profile p).inUse = false) : s.thenEvaluate o p c before after =
      s.accept o (before ++ [BitVec.ofNat 8 (s.profile p).current.val] ++ after) :=
  if_neg (Bool.eq_false_iff.1 h)

/-! ## PAUSE_PROFILE and RESUME_PROFILE (R120) -/

/-- Both orders are one, of the flag they write. -/
theorem exec_pause_eq (flag : Bool) (s : State) :
    exec (if flag then .pauseProfile else .resumeProfile) s = workProfile (if flag then 0x53 else 0x54)
      (fun o p s => s.setPause o p flag (if flag then .pause else .resume)) s := by
  cases flag <;> rfl

theorem setPause_of_locked {s : State} {p : ProfIx} (o : Order) (flag : Bool) (c : Cause)
    (h : (s.profile p).lock = .fullLocked) : s.setPause o p flag c = s.refuse o .locked :=
  if_pos ((refusesControl_iff _).2 h)

theorem setPause_of_free {s : State} {p : ProfIx} (o : Order) (flag : Bool) (c : Cause)
    (h : (s.profile p).lock ≠ .fullLocked) : s.setPause o p flag c =
      (s.setProfile p { s.profile p with paused := flag }).thenEvaluate o p c
        [byteOf p.val, flagByte flag, flagByte ((s.profile p).paused != flag)] [] :=
  if_neg (mt (refusesControl_iff _).1 h)

/-! ## RAISE_LOCK (R122) -/

theorem lockOfCode_code (l : Lock) : Lock.ofCode l.code = some l := by cases l <;> rfl

theorem lockOfCode_of_gt {n : Nat} (h : 2 < n) : Lock.ofCode n = none := by
  obtain ⟨k, rfl⟩ := Nat.exists_eq_add_of_le' h
  rfl

theorem raise_code (present asked : Lock) : (present.raise asked).code = max present.code asked.code := by
  unfold Lock.raise
  split
  · next h => exact (Nat.max_eq_right (Nat.le_of_lt h)).symm
  · next h => exact (Nat.max_eq_left (Nat.not_lt.1 h)).symm

section RaiseLock
variable {s : State} {o : Order} (ho : s.freshHead .pfe 0x56 = some o)
include ho

theorem exec_raiseLock_of_bad (h : 15 < o.u8 0 ∨ 2 < o.u8 1) :
    exec .raiseLock s = .next (s.refuse o .badParam) := by
  change execRaiseLock s = _
  by_cases hp : 15 < o.u8 0
  · exact workProfile_of_gt _ ho hp
  · rw [execRaiseLock, workProfile_of_val (p := ⟨o.u8 0, by omega⟩) _ ho rfl,
      lockOfCode_of_gt (h.resolve_left hp)]

theorem exec_raiseLock_of_level {p : ProfIx} {asked : Lock} (hp : o.u8 0 = p.val) (hl : o.u8 1 = asked.code) :
    let level := (s.profile p).lock.raise asked
    exec .raiseLock s = .next ((s.setProfile p { s.profile p with lock := level }).accept o [byteOf level.code]) := by
  change execRaiseLock s = _
  rw [execRaiseLock, workProfile_of_val _ ho hp, hl, lockOfCode_code]

end RaiseLock

/-- Settles O38: pause and resume are one order of the flag, and the higher lock has the greater code. -/
theorem pauseFlagAndLockLevel : Obligations.PauseFlagAndLockLevel := by
  refine ⟨fun s o flag => ?_, fun s o ho => ⟨exec_raiseLock_of_bad ho, fun p asked hp hl =>
    ⟨(s.profile p).lock.raise asked, raise_code _ _, exec_raiseLock_of_level ho hp hl⟩⟩⟩
  intro c ho
  rw [exec_pause_eq]
  refine ⟨fun h => workProfile_of_gt _ ho h, fun p hp => ?_⟩
  rw [workProfile_of_val _ ho hp]
  exact ⟨fun hl => by rw [setPause_of_locked _ _ _ hl], fun hl => by rw [setPause_of_free _ _ _ hl]; rfl⟩

end Sys2Proof.Machine.ProfilePrograms
end

section
/-!
PROOFS. The program that the parameters of a SET_PROGRAM carry, and when they are valid (R113): O37 says both.
-/

namespace Sys2Proof.Machine.ProfilePrograms

open Sys2Proof Sys2Proof.Machine

/-! ## The transitions and states of a program (R113) -/

theorem gateOfCode_some {n : Nat} {g : Gate} (h : Gate.ofCode n = some g) : g.code = n ∧ n ≤ 3 := by
  unfold Gate.ofCode at h
  split at h <;> cases h <;> simp [Gate.code]

theorem gateOfCode_isSome {n : Nat} (h : n ≤ 3) : (Gate.ofCode n).isSome = true :=
  have all : ∀ n < 4, (Gate.ofCode n).isSome = true := by decide
  all n (Nat.lt_succ_of_le h)

theorem condOfCode_some {n : Nat} {c : Cond} (h : Cond.ofCode n = some c) : c.code = n ∧ n ≤ 12 := by
  unfold Cond.ofCode at h
  split at h
  case h_6 =>
    split at h
    · cases h; exact ⟨rfl, by omega⟩
    · split at h
      · cases h; exact ⟨by simp only [Cond.code]; omega, by omega⟩
      · cases h
  all_goals cases h; exact ⟨rfl, by omega⟩

theorem condOfCode_isSome {n : Nat} (h : n ≤ 12) : (Cond.ofCode n).isSome = true :=
  have all : ∀ n < 13, (Cond.ofCode n).isSome = true := by decide
  all n (Nat.lt_succ_of_le h)

/-- The two bytes of a transition are valid in a program of `count` states. -/
def ValidTransition (l : List Byte) (i count : Nat) : Prop :=
  (byteAt l i).getLsbD 7 = true → (byteAt l i).toNat % 16 ≤ 12 ∧ (byteAt l (i + 1)).toNat < count

/-- A transition is the one that its two bytes name, cleared where they disable it. -/
def NamesTransition (l : List Byte) (i : Nat) (t : Transition) : Prop :=
  ((byteAt l i).getLsbD 7 = false → t = Transition.clear) ∧
  ((byteAt l i).getLsbD 7 = true → t.enabled = true ∧ t.cond.code = (byteAt l i).toNat % 16 ∧
    t.dest.val = (byteAt l (i + 1)).toNat)

theorem transitionAt_some {l : List Byte} {i count : Nat} {t : Transition} (h : transitionAt l i count = some t) :
    ValidTransition l i count ∧ NamesTransition l i t := by
  unfold transitionAt at h
  by_cases he : (byteAt l i).getLsbD 7 = true
  · simp only [he, if_true] at h
    split at h
    · next c dest hc hd =>
      obtain ⟨hcode, hle⟩ := condOfCode_some hc
      have hdest := finOf_some hd
      split at h
      · next hlt =>
        cases h
        exact ⟨fun _ => ⟨hle, hdest ▸ hlt⟩, fun hn => absurd he (Bool.eq_false_iff.1 hn), fun _ => ⟨rfl, hcode, hdest⟩⟩
      · cases h
    · cases h
  · simp only [he, Bool.false_eq_true, if_false] at h
    cases h
    exact ⟨fun hn => absurd hn he, fun _ => rfl, fun hn => absurd hn he⟩

theorem transitionAt_isSome {l : List Byte} {i count : Nat} (hcount : count ≤ 6) (h : ValidTransition l i count) :
    (transitionAt l i count).isSome = true := by
  unfold transitionAt
  by_cases he : (byteAt l i).getLsbD 7 = true
  · obtain ⟨hcond, hdest⟩ := h he
    obtain ⟨c, hc⟩ := Option.isSome_iff_exists.1 (condOfCode_isSome hcond)
    have hd := finOf_val (⟨_, Nat.lt_of_lt_of_le hdest hcount⟩ : Fin 6)
    simp only [he, hc, hd, hdest, if_true, Option.isSome_some]
  · simp only [he, Bool.false_eq_true, if_false, Option.isSome_some]

/-- The ten bytes of a state entry are valid in a program of `count` states. -/
def ValidState (l : List Byte) (i count : Nat) : Prop :=
  (byteAt l i).toNat ≤ 3 ∧ (byteAt l (i + 1)).toNat ≤ 3 ∧ ∀ k < 4, ValidTransition l (i + 2 + 2 * k) count

/-- A program state is the one that its ten bytes name. -/
def NamesState (l : List Byte) (i : Nat) (x : ProgState) : Prop :=
  x.level.code = (byteAt l i).toNat ∧ x.spentLevel.code = (byteAt l (i + 1)).toNat ∧
    ∀ k : Fin 4, NamesTransition l (i + 2 + 2 * k.val) (x.transitions.get k)

theorem progStateAt_some {l : List Byte} {i count : Nat} {x : ProgState} (h : progStateAt l i count = some x) :
    ValidState l i count ∧ NamesState l i x := by
  simp only [progStateAt] at h
  split at h
  · next level spentLevel hl hs =>
    obtain ⟨hlevel, hlevel3⟩ := gateOfCode_some hl
    obtain ⟨hspent, hspent3⟩ := gateOfCode_some hs
    split at h
    · next hall =>
      have read : ∀ k : Fin 4, ∃ t, transitionAt l (i + 2 + 2 * k.val) count = some t := fun k =>
        Option.isSome_iff_exists.1 (all_isSome_ofFn.1 hall k)
      cases h
      refine ⟨⟨hlevel3, hspent3, fun k hk => ?_⟩, hlevel, hspent, fun k => ?_⟩
      · obtain ⟨t, ht⟩ := read ⟨k, hk⟩
        exact (transitionAt_some ht).1
      · obtain ⟨t, ht⟩ := read k
        rw [get_map, get_ofFn, ht]
        exact (transitionAt_some ht).2
    · cases h
  · cases h

theorem progStateAt_isSome {l : List Byte} {i count : Nat} (hcount : count ≤ 6) (h : ValidState l i count) :
    (progStateAt l i count).isSome = true := by
  obtain ⟨hlevel, hspent, htransitions⟩ := h
  obtain ⟨level, hl⟩ := Option.isSome_iff_exists.1 (gateOfCode_isSome hlevel)
  obtain ⟨spentLevel, hs⟩ := Option.isSome_iff_exists.1 (gateOfCode_isSome hspent)
  have hall : ∀ k : Fin 4, (transitionAt l (i + 2 + 2 * k.val) count).isSome = true := fun k =>
    transitionAt_isSome hcount (htransitions k.val k.isLt)
  simp only [progStateAt, hl, hs, all_isSome_ofFn.2 hall, if_true, Option.isSome_some]

/-! ## The program of a SET_PROGRAM (R113) -/

/-- The parameters of a SET_PROGRAM are a valid program. -/
def ValidProgram (o : Order) : Prop :=
  1 ≤ o.u8 1 ∧ o.u8 1 ≤ 6 ∧ o.u8 2 < o.u8 1 ∧ ∀ n < o.u8 1, ValidState o.params (3 + 10 * n) (o.u8 1)

/-- The states of a program are those its bytes name below the count, and cleared ones beyond it. -/
def NamesStates (o : Order) (states : Vector ProgState 6) : Prop :=
  ∀ n : Fin 6, (o.u8 1 ≤ n.val → states.get n = ProgState.clear) ∧
    (n.val < o.u8 1 → NamesState o.params (3 + 10 * n.val) (states.get n))

theorem programOf_some {o : Order} {count : Nat} {initial : Fin 6} {states : Vector ProgState 6}
    (h : programOf o = some (count, initial, states)) :
    ValidProgram o ∧ count = o.u8 1 ∧ initial.val = o.u8 2 ∧ NamesStates o states := by
  simp only [programOf] at h
  split at h
  · next i hi =>
    have hinitial := finOf_some hi
    split at h
    · next hv =>
      obtain ⟨hlow, hhigh, hlt, hall⟩ := hv
      have entry : ∀ n : Fin 6, n.val < o.u8 1 → ∃ x, progStateAt o.params (3 + 10 * n.val) (o.u8 1) = some x :=
        fun n hn => by simpa [hn, Option.isSome_iff_exists] using all_isSome_ofFn.1 hall n
      cases h
      refine ⟨⟨hlow, hhigh, hinitial ▸ hlt, fun n hn => ?_⟩, rfl, hinitial, fun n => ⟨fun hn => ?_, fun hn => ?_⟩⟩
      · obtain ⟨x, hx⟩ := entry ⟨n, by omega⟩ hn
        exact (progStateAt_some hx).1
      · rw [get_map, get_ofFn, if_neg (Nat.not_lt.2 hn)]
        rfl
      · obtain ⟨x, hx⟩ := entry n hn
        rw [get_map, get_ofFn, if_pos hn, hx]
        exact (progStateAt_some hx).2
    · cases h
  · cases h

theorem programOf_isSome {o : Order} (h : ValidProgram o) : (programOf o).isSome = true := by
  obtain ⟨hlow, hhigh, hlt, hstates⟩ := h
  have hi := finOf_val (⟨o.u8 2, Nat.lt_of_lt_of_le hlt hhigh⟩ : Fin 6)
  have hentries : ∀ n : Fin 6, (if n.val < o.u8 1 then progStateAt o.params (3 + 10 * n.val) (o.u8 1)
      else some ProgState.clear).isSome = true := fun n => by
    split
    · next hn => exact progStateAt_isSome hhigh (hstates n.val hn)
    · rfl
  simp only [programOf, hi, hlow, hhigh, hlt, all_isSome_ofFn.2 hentries, and_self, if_true, Option.isSome_some]

/-- A SET_PROGRAM carries a program exactly when its parameters are valid, and then the one they name. -/
theorem programOf_spec (o : Order) : (¬ValidProgram o → programOf o = none) ∧
    (ValidProgram o → ∃ initial states, programOf o = some (o.u8 1, initial, states) ∧ initial.val = o.u8 2 ∧
      NamesStates o states) := by
  refine ⟨fun hv => Option.eq_none_iff_forall_ne_some.2 fun q hq => hv (programOf_some hq).1, fun hv => ?_⟩
  obtain ⟨⟨count, initial, states⟩, h⟩ := Option.isSome_iff_exists.1 (programOf_isSome hv)
  obtain ⟨-, rfl, hinitial, hstates⟩ := programOf_some h
  exact ⟨initial, states, h, hinitial, hstates⟩

/-! ### Where the bytes of a state stand among the parameters -/

section Places
variable (o : Order) (n : Nat)

theorem spentLevel_place : 3 + 10 * n + 1 = 4 + 10 * n := by omega

theorem condition_place (k : Nat) : 3 + 10 * n + 2 + 2 * k = 5 + 10 * n + 2 * k := by omega

theorem destination_place (k : Nat) : 5 + 10 * n + 2 * k + 1 = 6 + 10 * n + 2 * k := by omega

theorem validState_iff (count : Nat) : ValidState o.params (3 + 10 * n) count ↔
    o.u8 (3 + 10 * n) ≤ 3 ∧ o.u8 (4 + 10 * n) ≤ 3 ∧ ∀ k < 4, (byteAt o.params (5 + 10 * n + 2 * k)).getLsbD 7 = true →
      o.u8 (5 + 10 * n + 2 * k) % 16 ≤ 12 ∧ o.u8 (6 + 10 * n + 2 * k) < count := by
  simp only [ValidState, ValidTransition, spentLevel_place, condition_place, destination_place]
  rfl

theorem namesState_iff (x : ProgState) : NamesState o.params (3 + 10 * n) x ↔
    x.level.code = o.u8 (3 + 10 * n) ∧ x.spentLevel.code = o.u8 (4 + 10 * n) ∧ ∀ k : Fin 4,
      ((byteAt o.params (5 + 10 * n + 2 * k.val)).getLsbD 7 = false → x.transitions.get k = Transition.clear) ∧
      ((byteAt o.params (5 + 10 * n + 2 * k.val)).getLsbD 7 = true → (x.transitions.get k).enabled = true ∧
        (x.transitions.get k).cond.code = o.u8 (5 + 10 * n + 2 * k.val) % 16 ∧
        (x.transitions.get k).dest.val = o.u8 (6 + 10 * n + 2 * k.val)) := by
  simp only [NamesState, NamesTransition, spentLevel_place, condition_place, destination_place]
  rfl

end Places

end Sys2Proof.Machine.ProfilePrograms
end

section
/-!
PROOFS. The orders that write a profile and its program (R110, R111, R113, R121): O37.
-/

namespace Sys2Proof.Machine.ProfilePrograms

open Sys2Proof Sys2Proof.Machine Sys2Proof.Machine.FlowClassification Sys2Proof.Machine.StationRecords

/-! ## SET_PROFILE (R110) -/

/-- The start and end minutes of every window are minutes of a day. -/
def WindowsInDay (o : Order) : Prop := ∀ k, (windowAt o k).start ≤ 1439 ∧ (windowAt o k).stop ≤ 1439

theorem windowsOk_iff (o : Order) : windowsOk o = true ↔ WindowsInDay o := by simp [windowsOk, WindowsInDay]

/-- The profile with what a SET_PROFILE writes, and the stations told of it. -/
def profileSet (s : State) (o : Order) (p : ProfIx) : State :=
  let u := (s.setProfile p (profileOf (s.profile p) o)).notice (.allowance p)
  if (s.profile p).inUse then u else u.notice (.useChange p)

theorem profileSet_inUse (s : State) (o : Order) (p : ProfIx) : ((profileSet s o p).profile p).inUse = true := by
  unfold profileSet
  split <;> simp [profileOf]

section SetProfile
variable {s : State} {o : Order} (ho : s.freshHead .pfe 0x50 = some o)
include ho

theorem exec_setProfile_of_bad (h : 15 < o.u8 0 ∨ ¬WindowsInDay o) :
    exec .setProfile s = .next (s.refuse o .badParam) := by
  change execSetProfile s = _
  by_cases hp : 15 < o.u8 0
  · exact workProfile_of_gt _ ho hp
  · have hw : windowsOk o = false := Bool.eq_false_iff.2 (mt (windowsOk_iff o).1 (h.resolve_left hp))
    rw [execSetProfile, workProfile_of_val (p := ⟨o.u8 0, by omega⟩) _ ho rfl, hw]
    rfl

variable {p : ProfIx} (hp : o.u8 0 = p.val) (hw : WindowsInDay o)
include hp hw

theorem exec_setProfile_of_locked (hl : (s.profile p).lock ≠ .unlocked) :
    exec .setProfile s = .next (s.refuse o .locked) := by
  change execSetProfile s = _
  rw [execSetProfile, workProfile_of_val _ ho hp]
  simp only [(windowsOk_iff o).2 hw, (refusesWrite_iff _).2 hl, Bool.not_true, Bool.false_eq_true, if_false, if_true]

theorem exec_setProfile_of_unlocked (hl : (s.profile p).lock = .unlocked) :
    exec .setProfile s = .next (State.trigger ((profileSet s o p).mark o.id .working)
      ⟨p, .setProfile, none, some ⟨o.id, [byteOf p.val], [flagByte (!(s.profile p).inUse)]⟩⟩) := by
  change execSetProfile s = _
  rw [execSetProfile, workProfile_of_val _ ho hp]
  simp only [(windowsOk_iff o).2 hw, refusesWrite_of_unlocked hl, Bool.not_true, Bool.false_eq_true, if_false]
  exact congrArg _ (thenEvaluate_of_inUse _ _ _ (profileSet_inUse s o p))

end SetProfile

/-! ## CLEAR_PROFILE (R111) -/

section ClearProfile
variable {s : State} {o : Order} (ho : s.freshHead .pfe 0x52 = some o)
include ho

theorem exec_clearProfile_of_gt (h : 15 < o.u8 0) : exec .clearProfile s = .next (s.refuse o .badParam) := by
  change execClearProfile s = _
  exact workProfile_of_gt _ ho h

variable {p : ProfIx} (hp : o.u8 0 = p.val)
include hp

theorem exec_clearProfile_of_locked (hl : (s.profile p).lock ≠ .unlocked) :
    exec .clearProfile s = .next (s.refuse o .locked) := by
  change execClearProfile s = _
  rw [execClearProfile, workProfile_of_val _ ho hp]
  exact congrArg _ (if_pos ((refusesWrite_iff _).2 hl))

theorem exec_clearProfile_of_unlocked (hl : (s.profile p).lock = .unlocked) :
    exec .clearProfile s = .next ((if (s.profile p).inUse then
        ((s.setProfile p { s.profile p with inUse := false }).notice (.useChange p)).notice (.allowance p)
      else s).accept o [byteOf p.val, byteOf (s.profile p).current.val]) := by
  change execClearProfile s = _
  rw [execClearProfile, workProfile_of_val _ ho hp]
  exact congrArg _ (if_neg (Bool.eq_false_iff.1 (refusesWrite_of_unlocked hl)))

end ClearProfile

/-! ## SET_PROGRAM (R113) -/

section SetProgram
variable {s : State} {o : Order} (ho : s.freshHead .pfe 0x51 = some o)
include ho

theorem exec_setProgram_of_gt (h : 15 < o.u8 0) : exec .setProgram s = .next (s.refuse o .badParam) := by
  change execSetProgram s = _
  exact workProfile_of_gt _ ho h

variable {p : ProfIx} (hp : o.u8 0 = p.val)
include hp

theorem exec_setProgram_of_locked (hl : (s.profile p).lock ≠ .unlocked) :
    exec .setProgram s = .next (s.refuse o .locked) := by
  change execSetProgram s = _
  rw [execSetProgram, workProfile_of_val _ ho hp]
  exact congrArg _ (if_pos ((refusesWrite_iff _).2 hl))

variable (hl : (s.profile p).lock = .unlocked)
include hl

theorem exec_setProgram_of_invalid (h : programOf o = none) : exec .setProgram s = .next (s.refuse o .badParam) := by
  change execSetProgram s = _
  rw [execSetProgram, workProfile_of_val _ ho hp, h]
  exact congrArg _ (if_neg (Bool.eq_false_iff.1 (refusesWrite_of_unlocked hl)))

theorem exec_setProgram_of_program {count : Nat} {initial : Fin 6} {states : Vector ProgState 6}
    (h : programOf o = some (count, initial, states)) : exec .setProgram s = .next
      ((s.toInitial p { s.profile p with count := count, initial := initial, states := states } .setProgram).thenEvaluate
        o p .setProgram [byteOf p.val] []) := by
  change execSetProgram s = _
  rw [execSetProgram, workProfile_of_val _ ho hp, h]
  exact congrArg _ (if_neg (Bool.eq_false_iff.1 (refusesWrite_of_unlocked hl)))

end SetProgram

/-! ## RESTART_PROFILE (R121) and the return to the initial state -/

section RestartProfile
variable {s : State} {o : Order} (ho : s.freshHead .pfe 0x55 = some o)
include ho

theorem exec_restartProfile_of_gt (h : 15 < o.u8 0) : exec .restartProfile s = .next (s.refuse o .badParam) := by
  change execRestartProfile s = _
  exact workProfile_of_gt _ ho h

variable {p : ProfIx} (hp : o.u8 0 = p.val)
include hp

theorem exec_restartProfile_of_locked (hl : (s.profile p).lock = .fullLocked) :
    exec .restartProfile s = .next (s.refuse o .locked) := by
  change execRestartProfile s = _
  rw [execRestartProfile, workProfile_of_val _ ho hp]
  exact congrArg _ (if_pos ((refusesControl_iff _).2 hl))

theorem exec_restartProfile_of_free (hl : (s.profile p).lock ≠ .fullLocked) : exec .restartProfile s =
    .next ((s.toInitial p (s.profile p) .restart).thenEvaluate o p .restart [byteOf p.val] []) := by
  change execRestartProfile s = _
  rw [execRestartProfile, workProfile_of_val _ ho hp]
  exact congrArg _ (if_neg (mt (refusesControl_iff _).1 hl))

end RestartProfile

theorem toInitial_of_same (s : State) (p : ProfIx) {x : Profile} (c : Cause) (h : x.initial = x.current) :
    s.toInitial p x c = s.setProfile p { x with current := x.initial } := if_pos h

theorem toInitial_of_moved (s : State) (p : ProfIx) {x : Profile} (c : Cause) (h : x.initial ≠ x.current) :
    let y := { x with current := x.initial }
    s.toInitial p x c = ((s.setProfile p y).giveReport .profileState p.val
      (stateBody y x.initial x.current 0 c)).notice (.stateChange p) := if_neg h

/-- Settles O37: each order is split by its number, the profile's lock and use, and the validity of what it carries. -/
theorem profilesAndProgramsAreWritten : Obligations.ProfilesAndProgramsAreWritten := by
  refine ⟨fun s o ho => ⟨fun h => exec_setProfile_of_bad ho h, fun p hp hw =>
      ⟨fun hl => exec_setProfile_of_locked ho hp hw hl, fun hl => ?_⟩⟩,
    fun s o ho => ⟨exec_clearProfile_of_gt ho, fun p hp => ⟨exec_clearProfile_of_locked ho hp, fun hl hu => ?_,
      fun hl hu => ?_⟩⟩,
    fun s o ho => ⟨exec_setProgram_of_gt ho, fun p hp => ⟨exec_setProgram_of_locked ho hp,
      exec_setProgram_of_invalid ho hp, fun count initial states hl h => exec_setProgram_of_program ho hp hl h⟩⟩,
    fun o => ?_,
    fun s o ho => ⟨exec_restartProfile_of_gt ho, fun p hp => ⟨exec_restartProfile_of_locked ho hp,
      exec_restartProfile_of_free ho hp⟩⟩,
    fun s p x c => ⟨toInitial_of_same s p c, toInitial_of_moved s p c⟩,
    fun s o p c before after => ⟨thenEvaluate_of_inUse c before after, thenEvaluate_of_unused c before after⟩,
    fun s t n => ⟨rfl, rfl⟩, fun s p x => rfl⟩
  · rw [exec_setProfile_of_unlocked ho hp hw hl, profileSet]
    simp only [profileOf, clamp_zero]
    rfl
  · rw [exec_clearProfile_of_unlocked ho hp hl, hu]
    rfl
  · rw [exec_clearProfile_of_unlocked ho hp hl, hu]
    rfl
  · simpa only [ValidProgram, validState_iff, NamesStates, namesState_iff] using programOf_spec o

end Sys2Proof.Machine.ProfilePrograms
end

section
/-!
PROOFS. The node's identity and the peer table (R123 to R127, R134): O41.
-/

namespace Sys2Proof.Machine.MeshControlLink

open Sys2Proof Sys2Proof.Machine Sys2Proof.Machine.FlowClassification Sys2Proof.Machine.AirtimeScheduling

/-! ## The peer table (R125) -/

/-- The peer at a position has the node number. -/
def HoldsNode (s : State) (n : Nat) (k : Fin 7) : Prop := ∃ q, s.mlc.peers.get k = some q ∧ q.node.val = n

theorem peerAt_eq (s : State) (n : Nat) :
    s.peerAt n = firstIx s.mlc.peers fun e => e.any fun q => q.node.val == n := by
  unfold State.peerAt
  congr 1
  funext e
  cases e <;> rfl

theorem peerAt_spec (s : State) (n : Nat) :
    (∀ k, s.peerAt n = some k ↔ HoldsNode s n k ∧ ∀ j < k, ¬HoldsNode s n j) ∧
    (s.peerAt n = none ↔ ∀ k, ¬HoldsNode s n k) := by
  rw [peerAt_eq]
  exact firstIx_spec (HoldsNode s n) fun k => by simp [Option.any_eq_true, HoldsNode]

theorem findPeer_eq (s : State) (n : Nat) : s.findPeer n = (s.peerAt n).bind s.mlc.peers.get := by
  rw [State.findPeer, find?_present, peerAt_eq]

theorem findPeer_eq_some_iff (s : State) (n : Nat) (q : Peer) :
    s.findPeer n = some q ↔ ∃ k, s.peerAt n = some k ∧ s.mlc.peers.get k = some q := by
  rw [findPeer_eq, Option.bind_eq_some_iff]

theorem toList_eq_map_get (v : Vector α n) : v.toList = (List.finRange n).map v.get :=
  List.ext_getElem (by simp) fun i hi _ => by simp [get_eq_getElem]

/-- Another peer's record holds the MAC. -/
theorem macTaken_iff (s : State) (n : Node) (m : Mac) :
    s.macTaken n m = true ↔ ∃ k q, s.mlc.peers.get k = some q ∧ q.node ≠ n ∧ q.mac = m := by
  simp only [State.macTaken, toList_eq_map_get, List.any_eq_true, List.mem_filterMap, List.mem_map, List.mem_finRange,
    true_and, id_eq, Bool.and_eq_true, bne_iff_ne, beq_iff_eq]
  constructor
  · rintro ⟨q, ⟨_, ⟨k, rfl⟩, hk⟩, hq⟩; exact ⟨k, q, hk, hq⟩
  · rintro ⟨k, q, hk, hq⟩; exact ⟨q, ⟨_, ⟨k, rfl⟩, hk⟩, hq⟩

/-! ## Turning the mesh off (R124) -/

/-- A peer record as MESH_OFF leaves it. -/
def peerOff (e : Option Peer) : Option Peer :=
  e.map fun q => if q.present then { q with present := false, lastSeq := none } else q

/-- The PEER_CHANGE of a peer that MESH_OFF makes ABSENT. -/
def offReport (time : Ms) (q : Peer) : Report := ⟨.peerChange, q.node.val, time, peerBody q false .meshOff⟩

/-- What MESH_OFF does with the peer at one position. -/
def offAt (s : State) (k : Fin 7) : State :=
  match s.mlc.peers.get k with
  | some q => if q.present then s.setPresence k q false .meshOff else s
  | none => s

/-- The state after MESH_OFF at the positions of a list. -/
def offAll (s : State) (l : List (Fin 7)) : State :=
  let present := (l.filterMap s.mlc.peers.get).filter Peer.present
  { s with
    mlc := { s.mlc with
      peers := Vector.ofFn fun k => if k ∈ l then peerOff (s.mlc.peers.get k) else s.mlc.peers.get k
      presence := s.mlc.presence ++ present.map fun q => (q.node, false) }
    exu := { s.exu with arrivals := s.exu.arrivals ++ present.map (offReport s.sck.ms) } }

theorem offAt_of_present {s : State} {k : Fin 7} {q : Peer} (hk : s.mlc.peers.get k = some q) (hq : q.present = true) :
    offAt s k = { s with
      mlc := { s.mlc with
        peers := put s.mlc.peers k (peerOff (some q)), presence := s.mlc.presence ++ [(q.node, false)] }
      exu := { s.exu with arrivals := s.exu.arrivals ++ [offReport s.sck.ms q] } } := by
  simp only [offAt, hk, hq, if_true, peerOff, Option.map_some]
  rfl

theorem offAt_of_not_present {s : State} {k : Fin 7} (h : ∀ q, s.mlc.peers.get k = some q → q.present = false) :
    offAt s k = s := by
  unfold offAt
  split
  · next q hk => simp [h q hk]
  · rfl

/-- Two selections from a list agree that agree on its members. -/
theorem filterMap_eq_of_forall_mem {f g : α → Option β} {l : List α} (h : ∀ x ∈ l, f x = g x) :
    l.filterMap f = l.filterMap g := by
  induction l with
  | nil => rfl
  | cons x l ih =>
    obtain ⟨hx, hl⟩ := List.forall_mem_cons.1 h
    simp only [List.filterMap_cons, hx, ih hl]

/-- A peer that is not PRESENT is left by MESH_OFF. -/
theorem peerOff_of_not_present {e : Option Peer} (h : ∀ q, e = some q → q.present = false) : peerOff e = e := by
  cases e with
  | none => rfl
  | some q => simp [peerOff, h q rfl]

theorem offAll_cons_of_present {s : State} {k : Fin 7} {l : List (Fin 7)} {q : Peer} (hl : k ∉ l)
    (hk : s.mlc.peers.get k = some q) (hq : q.present = true) : offAll (offAt s k) l = offAll s (k :: l) := by
  have hpeers : ∀ j ∈ l, (put s.mlc.peers k (peerOff (some q))).get j = s.mlc.peers.get j := fun j hj =>
    get_put_ne _ _ fun e => hl (e ▸ hj)
  have hmap : l.filterMap (put s.mlc.peers k (peerOff (some q))).get = l.filterMap s.mlc.peers.get :=
    filterMap_eq_of_forall_mem hpeers
  have hvec : (Vector.ofFn fun j => if j ∈ l then peerOff ((put s.mlc.peers k (peerOff (some q))).get j)
      else (put s.mlc.peers k (peerOff (some q))).get j) =
      Vector.ofFn fun j => if j ∈ k :: l then peerOff (s.mlc.peers.get j) else s.mlc.peers.get j := by
    congr 1
    funext j
    by_cases hj : j = k
    · simp [hj, hl, hk]
    · simp [hj, get_put_ne]
  simp only [offAll, offAt_of_present hk hq, hmap, hvec, List.filterMap_cons_some hk, List.filter_cons_of_pos hq,
    List.map_cons, List.append_assoc, List.singleton_append]

theorem offAll_cons_of_not_present {s : State} {k : Fin 7} {l : List (Fin 7)}
    (h : ∀ q, s.mlc.peers.get k = some q → q.present = false) : offAll s l = offAll s (k :: l) := by
  have hmap : ((k :: l).filterMap s.mlc.peers.get).filter Peer.present =
      (l.filterMap s.mlc.peers.get).filter Peer.present := by
    rw [List.filterMap_cons]
    split
    · rfl
    · next q hk => simp [h q hk]
  have hvec : (Vector.ofFn fun j => if j ∈ k :: l then peerOff (s.mlc.peers.get j) else s.mlc.peers.get j) =
      Vector.ofFn fun j => if j ∈ l then peerOff (s.mlc.peers.get j) else s.mlc.peers.get j := by
    congr 1
    funext j
    by_cases hj : j = k
    · simp [hj, peerOff_of_not_present h]
    · simp [hj]
  simp only [offAll, hmap, hvec]

/-- MESH_OFF taken position by position makes every PRESENT peer ABSENT at once, its notices and reports in the order of
the positions. -/
theorem foldl_offAt (l : List (Fin 7)) (hl : l.Nodup) (s : State) : l.foldl offAt s = offAll s l := by
  induction l generalizing s with
  | nil =>
    have hvec : Vector.ofFn s.mlc.peers.get = s.mlc.peers := vector_ext_get fun k => get_ofFn _ k
    simp only [List.foldl_nil, offAll, List.not_mem_nil, if_false, List.filterMap_nil, List.filter_nil, List.map_nil,
      List.append_nil, hvec]
  | cons k l ih =>
    obtain ⟨hk, hl⟩ := List.nodup_cons.1 hl
    rw [List.foldl_cons, ih hl]
    by_cases h : ∀ q, s.mlc.peers.get k = some q → q.present = false
    · rw [offAt_of_not_present h, offAll_cons_of_not_present h]
    · obtain ⟨q, hq, hp⟩ : ∃ q, s.mlc.peers.get k = some q ∧ q.present = true := by simpa using h
      exact offAll_cons_of_present hk hq hp

theorem meshOff_eq (s : State) :
    let present := (s.mlc.peers.toList.filterMap id).filter Peer.present
    s.meshOff = { s with
      mlc := { s.mlc with
        peers := s.mlc.peers.map peerOff, presence := s.mlc.presence ++ present.map fun q => (q.node, false) }
      exu := { s.exu with arrivals := s.exu.arrivals ++ present.map (offReport s.sck.ms) } } := by
  have hlist : s.mlc.peers.toList.filterMap id = (List.finRange 7).filterMap s.mlc.peers.get := by
    rw [toList_eq_map_get, List.filterMap_map]
    rfl
  have hvec : s.mlc.peers.map peerOff = Vector.ofFn fun k =>
      if k ∈ List.finRange 7 then peerOff (s.mlc.peers.get k) else s.mlc.peers.get k :=
    vector_ext_get fun k => by simp
  have hoff : s.meshOff = offAll s (List.finRange 7) := foldl_offAt _ (List.nodup_finRange 7) s
  rw [hoff, hlist, hvec]
  rfl

/-! ## SET_NODE (R123, R124) -/

theorem inMove_iff (r : Station) : r.inMove = true ↔ r.state = .offering ∨ r.state = .moving ∨ r.state = .withdrawing ∨
    r.state = .left ∨ r.state = .reserved ∨ (r.state = .active ∧ r.handoff.isSome = true) := by
  unfold Station.inMove
  cases r.state <;> simp

theorem usableMac_iff (m : Mac) : usableMac m = true ↔ ¬(groupMac m = true ∨ m = 0) := by
  simp [usableMac]

theorem etherTypeOk_iff (t : Nat) : etherTypeOk t = true ↔ ¬(t < 0x0600 ∨ t = 0x0800 ∨ t = 0x86DD) := by
  simp [etherTypeOk, and_assoc]

/-- The parameters a SET_NODE refuses (R123). -/
def BadNode (s : State) (o : Order) : Prop :=
  7 < o.u8 0 ∨ (s.findPeer (o.u8 0)).isSome = true ∨ groupMac (macAt o.params 1) = true ∨ macAt o.params 1 = 0 ∨
    o.u16 7 < 0x0600 ∨ o.u16 7 = 0x0800 ∨ o.u16 7 = 0x86DD

/-- The identity a SET_NODE may not change: another number while a record's exchange names this node (R123). -/
def NodeInMove (s : State) (n : Node) : Prop :=
  s.mlc.set = true ∧ s.mlc.node ≠ n ∧ ∃ r ∈ s.stt.recs.toList, r.inMove = true

theorem nodeInMove_iff (s : State) (n : Node) :
    (s.mlc.set && s.mlc.node != n && s.stt.recs.toList.any Station.inMove) = true ↔ NodeInMove s n := by
  simp only [Bool.and_eq_true, bne_iff_ne, List.any_eq_true, and_assoc, NodeInMove]

/-- With the node number in range, SET_NODE tests the rest of its parameters. -/
theorem badNode_iff {s : State} {o : Order} {n : Node} (hn : o.u8 0 = n.val) :
    ((s.findPeer n.val).isSome || !usableMac (macAt o.params 1) || !etherTypeOk (o.u16 7)) = true ↔ BadNode s o := by
  have hrange : ¬7 < n.val := Nat.not_lt.2 (Nat.lt_succ_iff.1 n.isLt)
  simp only [BadNode, hrange, false_or, hn, Bool.or_eq_true, Bool.not_eq_true', ← Bool.not_eq_true (usableMac _),
    ← Bool.not_eq_true (etherTypeOk _), usableMac_iff, etherTypeOk_iff, Classical.not_not, or_assoc]

section SetNode
variable {s : State} {o : Order} (ho : s.freshHead .mlc 0x60 = some o)
include ho

theorem exec_setNode_of_bad (h : BadNode s o) : exec .setNode s = .next (s.refuse o .badParam) := by
  change execSetNode s = _
  simp only [execSetNode, workOrder_of_some _ ho]
  congr 1
  split
  · rfl
  · next n hn => exact if_pos ((badNode_iff (finOf_some hn).symm).2 h)

variable {n : Node} (hn : o.u8 0 = n.val) (hb : ¬BadNode s o)
include hn hb

theorem exec_setNode_of_busy (h : NodeInMove s n) : exec .setNode s = .next (s.refuse o .again) := by
  change execSetNode s = _
  simp only [execSetNode, workOrder_of_some _ ho, hn, finOf_val]
  exact congrArg _ ((if_neg (mt (badNode_iff hn).1 hb)).trans (if_pos ((nodeInMove_iff s n).2 h)))

theorem exec_setNode_of_free (h : ¬NodeInMove s n) : exec .setNode s =
    .next ((s.writeNode n (macAt o.params 1) (o.u16 7) (o.flag 9)).accept o
      ([byteOf n.val] ++ le 2 (o.u16 7) ++ [flagByte (o.flag 9), flagByte (!s.mlc.set)])) := by
  change execSetNode s = _
  simp only [execSetNode, workOrder_of_some _ ho, hn, finOf_val]
  exact congrArg _ ((if_neg (mt (badNode_iff hn).1 hb)).trans (if_neg (mt (nodeInMove_iff s n).1 h)))

end SetNode

theorem writeNode_eq (s : State) (n : Node) (m : Mac) (type : Nat) (enable : Bool) :
    let t := { s with mlc := { s.mlc with
      set := true, node := n, mac := m, etherType := BitVec.ofNat 16 type, enable := enable } }
    s.writeNode n m type enable =
      if s.mlc.set = true ∧ s.mlc.enable = true ∧ enable = false then State.meshOff t else t := by
  intro t
  have hc : (s.meshEnabled && !enable) = true ↔ s.mlc.set = true ∧ s.mlc.enable = true ∧ enable = false := by
    simp [State.meshEnabled, and_assoc]
  simp only [State.writeNode, hc]
  rfl

/-! ## SET_PEER (R126) -/

/-- The parameters a SET_PEER refuses for a node number in range. -/
def BadPeer (s : State) (n : Node) (m : Mac) : Prop :=
  (s.mlc.set = true ∧ s.mlc.node = n) ∨ groupMac m = true ∨ m = 0 ∨
    ∃ k q, s.mlc.peers.get k = some q ∧ q.node ≠ n ∧ q.mac = m

theorem badPeer_iff (s : State) (n : Node) (m : Mac) :
    ((s.mlc.set && s.mlc.node == n) || !usableMac m || s.macTaken n m) = true ↔ BadPeer s n m := by
  simp only [Bool.or_eq_true, Bool.and_eq_true, beq_iff_eq, Bool.not_eq_true', ← Bool.not_eq_true, usableMac_iff,
    Classical.not_not, macTaken_iff, or_assoc, BadPeer]

section SetPeer
variable {s : State} {o : Order} (ho : s.freshHead .mlc 0x61 = some o)
include ho

theorem exec_setPeer_of_gt (h : 7 < o.u8 0) : exec .setPeer s = .next (s.refuse o .badParam) := by
  change execSetPeer s = _
  simp only [execSetPeer, workOrder_of_some _ ho, finOf_eq_none_iff.2 h]

variable {n : Node} (hn : o.u8 0 = n.val)
include hn

theorem exec_setPeer_of_bad (h : BadPeer s n (macAt o.params 1)) : exec .setPeer s = .next (s.refuse o .badParam) := by
  change execSetPeer s = _
  simp only [execSetPeer, workOrder_of_some _ ho, hn, finOf_val]
  exact congrArg _ (if_pos ((badPeer_iff s n _).2 h))

variable (hb : ¬BadPeer s n (macAt o.params 1))
include hb

theorem exec_setPeer_of_known {k : Fin 7} {q : Peer} (hk : s.peerAt n.val = some k) (hq : s.mlc.peers.get k = some q) :
    exec .setPeer s = .next ((s.putPeer k (some { q with
      mac := macAt o.params 1, rate := peerRate (o.u16 7) })).accept o [byteOf k.val, flagByte q.present]) := by
  change execSetPeer s = _
  simp only [execSetPeer, workOrder_of_some _ ho, hn, finOf_val, hk, hq]
  exact congrArg _ (if_neg (mt (badPeer_iff s n _).1 hb))

variable (hk : s.peerAt n.val = none)
include hk

theorem exec_setPeer_of_room {k : Fin 7} (hf : firstIx s.mlc.peers Option.isNone = some k) : exec .setPeer s =
    .next ((s.putPeer k (some (Peer.new n (macAt o.params 1) (peerRate (o.u16 7))))).accept o [byteOf k.val, 0]) := by
  change execSetPeer s = _
  simp only [execSetPeer, workOrder_of_some _ ho, hn, finOf_val, hk, hf]
  exact congrArg _ (if_neg (mt (badPeer_iff s n _).1 hb))

theorem exec_setPeer_of_full (hf : firstIx s.mlc.peers Option.isNone = none) :
    exec .setPeer s = .next (s.refuse o .noRoom) := by
  change execSetPeer s = _
  simp only [execSetPeer, workOrder_of_some _ ho, hn, finOf_val, hk, hf]
  exact congrArg _ (if_neg (mt (badPeer_iff s n _).1 hb))

end SetPeer

/-! ## CLEAR_PEER (R127) -/

section ClearPeer
variable {s : State} {o : Order} (ho : s.freshHead .mlc 0x62 = some o)
include ho

theorem exec_clearPeer_of_gt (h : 7 < o.u8 0) : exec .clearPeer s = .next (s.refuse o .badParam) := by
  change execClearPeer s = _
  simp only [execClearPeer, workOrder_of_some _ ho, h, if_true]

variable (hn : o.u8 0 ≤ 7)
include hn

theorem exec_clearPeer_of_unknown (hk : s.peerAt (o.u8 0) = none) :
    exec .clearPeer s = .next (s.refuse o .notFound) := by
  change execClearPeer s = _
  simp only [execClearPeer, workOrder_of_some _ ho, Nat.not_lt.2 hn, if_false, hk]

theorem exec_clearPeer_of_known {k : Fin 7} {q : Peer} (hk : s.peerAt (o.u8 0) = some k)
    (hq : s.mlc.peers.get k = some q) : exec .clearPeer s = .next
      (((if q.present then s.setPresence k q false .cleared else s).putPeer k none).accept o [byteOf k.val]) := by
  change execClearPeer s = _
  simp only [execClearPeer, workOrder_of_some _ ho, Nat.not_lt.2 hn, if_false, hk, hq]

end ClearPeer

/-- Settles O41: each order is split by its parameters and the peer table, and MESH_OFF over the positions is one
change of all PRESENT peers (`foldl_offAt`). -/
theorem nodeAndPeersAreSet : Obligations.NodeAndPeersAreSet := by
  refine ⟨fun s o ho => ⟨exec_setNode_of_bad ho, fun n hn hb => ⟨exec_setNode_of_busy ho hn hb, fun hbusy => ?_⟩⟩,
    inMove_iff, meshOff_eq, fun s o ho => ?_,
    fun s o ho => ⟨exec_setPeer_of_gt ho, fun n hn => ⟨exec_setPeer_of_bad ho hn,
      fun k q hb => exec_setPeer_of_known ho hn hb, fun k hb hk => exec_setPeer_of_room ho hn hb hk,
      exec_setPeer_of_full ho hn⟩⟩,
    fun s o ho => ⟨exec_clearPeer_of_gt ho, exec_clearPeer_of_unknown ho, fun k q h => exec_clearPeer_of_known ho h⟩,
    fun s n => ⟨(peerAt_spec s n).1, (peerAt_spec s n).2, findPeer_eq_some_iff s n⟩, fun s k q => rfl,
    fun α n v p => ?_⟩
  · rw [exec_setNode_of_free ho hn hb hbusy, writeNode_eq]
    rfl
  · change execMeshInfo s = _
    rw [execMeshInfo, workOrder_of_some _ ho]
    rfl
  · refine ⟨fun k => firstIx_eq_some_iff, ?_⟩
    simpa only [Bool.not_eq_true] using (firstIx_spec (v := v) (p := p) _ fun i => Iff.rfl).2

end Sys2Proof.Machine.MeshControlLink
end

section
/-!
PROOFS. Mesh control frames, messages sent, beacons and presence (R128 to R131, R143, R162, R163, R171): O42.
-/

namespace Sys2Proof.Machine.MeshControlLink

open Sys2Proof Sys2Proof.Machine Sys2Proof.Machine.FlowClassification

theorem meshEnabled_iff (s : State) : s.meshEnabled = true ↔ s.mlc.set = true ∧ s.mlc.enable = true :=
  Bool.and_eq_true_iff

/-! ## The form test (R129, R171) -/

/-- The body length of a kind, with its counts in range (R171). -/
def BodyLength (kind : Nat) (body : List Byte) (n : Nat) : Prop :=
  let b := fun k => (byteAt body k).toNat
  (kind = 1 ∧ n = 12) ∨ (kind = 2 ∧ n = 8) ∨ (kind = 3 ∧ n = 10) ∨
    (kind = 4 ∧ b 22 ≤ 4 ∧ b 23 ≤ 16 ∧ n = 24 + 5 * b 22 + 40 * b 23) ∨
    ((kind = 5 ∨ kind = 7 ∨ kind = 10 ∨ kind = 11) ∧ n = 10) ∨ (kind = 6 ∧ n = 11) ∨ (kind = 8 ∧ n = 17) ∨
    (kind = 9 ∧ n = 5) ∨ (kind = 12 ∧ 1 ≤ b 4 ∧ b 4 ≤ 8 ∧ n = 5 + 2 * b 4) ∨
    (kind = 13 ∧ 1 ≤ beAt body 7 2 ∧ beAt body 7 2 ≤ 1024 ∧ n = 9 + beAt body 7 2) ∨
    (kind = 14 ∧ 1 ≤ b 5 ∧ b 5 ≤ 8 ∧ n = 6 + 2 * b 5)

/-- A kind with a body length is one of the 14. -/
theorem BodyLength.kind_range {kind : Nat} {body : List Byte} {n : Nat} (h : BodyLength kind body n) :
    1 ≤ kind ∧ kind ≤ 14 := by
  unfold BodyLength at h
  omega

theorem bodyLength_iff (kind : Nat) (body : List Byte) (n : Nat) :
    bodyLength kind body = some n ↔ BodyLength kind body n := by
  unfold bodyLength BodyLength
  split
  case h_15 => grind
  all_goals simp [and_assoc, eq_comm]

theorem formOk_iff (f : List Byte) : formOk f = true ↔
    22 ≤ f.length ∧ byteAt f 14 = 1 ∧ 22 + beAt f 20 2 ≤ f.length ∧
      ((byteAt f 17).toNat = 15 → (byteAt f 15).toNat = 1) ∧
      ¬(8 ≤ (byteAt f 17).toNat ∧ (byteAt f 17).toNat ≤ 14) ∧
      BodyLength (byteAt f 15).toNat ((f.drop 22).take (beAt f 20 2)) (beAt f 20 2) := by
  simp only [formOk, Bool.and_eq_true, decide_eq_true_eq, beq_iff_eq, bodyLength_iff, Bool.not_eq_true',
    Bool.and_eq_false_imp, kBeacon]
  constructor
  · rintro ⟨⟨⟨⟨⟨⟨⟨h1, h2⟩, -⟩, -⟩, h5⟩, h6⟩, h7⟩, h8⟩
    refine ⟨h1, h2, h5, ?_, ?_, h6⟩
    · simpa using h7
    · simpa using h8
  · rintro ⟨h1, h2, h5, h7, h8, h6⟩
    obtain ⟨h3, h4⟩ := h6.kind_range
    refine ⟨⟨⟨⟨⟨⟨⟨h1, h2⟩, h3⟩, h4⟩, h5⟩, h6⟩, ?_⟩, ?_⟩
    · simpa using h7
    · simpa using h8

/-! ## A valid message (R129, R131) -/

section Valid
variable (s : State) (k : Fin 7) (q : Peer) (f : List Byte)

/-- The peer record of the sender of a valid message. -/
def heardIn : Peer :=
  q.heard s.sck.ms (BitVec.ofNat 16 (beAt f 18 2)) (byteAt f 15).toNat ((f.drop 22).take (beAt f 20 2))

/-- The state in which the sender of a valid message has been marked heard. -/
def markedHeard : State :=
  if q.present then s.putPeer k (some (heardIn s q f)) else s.setPresence k (heardIn s q f) true .heard

/-- The valid message of a frame. -/
def messageOf : Msg := ⟨q.node, (byteAt f 15).toNat, (f.drop 22).take (beAt f 20 2)⟩

theorem markedHeard_hoc_messages : (markedHeard s k q f).hoc.messages = s.hoc.messages := by
  unfold markedHeard
  split <;> rfl

theorem markedHeard_ups_messages : (markedHeard s k q f).ups.messages = s.ups.messages := by
  unfold markedHeard
  split <;> rfl

end Valid

theorem deliver_of_beacon {s : State} {m : Msg} (h : m.kind = 1) : s.deliver m = s := if_pos h

theorem deliver_of_handoff {s : State} {m : Msg} (h : 1 < m.kind) (h' : m.kind < 12) :
    s.deliver m = { s with hoc := { s.hoc with messages := s.hoc.messages ++ [m] } } :=
  (if_neg (Nat.ne_of_gt h)).trans (if_pos h')

theorem deliver_of_update {s : State} {m : Msg} (h : 12 ≤ m.kind) :
    s.deliver m = { s with ups := { s.ups with messages := s.ups.messages ++ [m] } } :=
  (if_neg (Nat.ne_of_gt (Nat.lt_of_lt_of_le (by decide : kBeacon < 12) h))).trans (if_neg (Nat.not_lt.2 h))

/-! ## The tests of a frame, in order (R129) -/

section Frame
variable {s : State} {f : List Byte}

theorem meshFrame_of_off (h : ¬(s.mlc.set = true ∧ s.mlc.enable = true)) : s.meshFrame f = s.discard .off := by
  have he : s.meshEnabled = false := Bool.eq_false_iff.2 (mt (meshEnabled_iff s).1 h)
  simp [State.meshFrame, he]

variable (h : s.mlc.set = true ∧ s.mlc.enable = true)
include h

theorem meshFrame_of_malformed (hf : formOk f = false) : s.meshFrame f = s.discard .malformed := by
  simp [State.meshFrame, (meshEnabled_iff s).2 h, hf]

variable (hf : formOk f = true)
include hf

theorem meshFrame_of_no_peer (hk : s.peerAt (byteAt f 16).toNat = none) :
    s.meshFrame f = s.discard .unknownSender := by
  simp [State.meshFrame, (meshEnabled_iff s).2 h, hf, hk]

variable {k : Fin 7} {q : Peer} (hk : s.peerAt (byteAt f 16).toNat = some k) (hq : s.mlc.peers.get k = some q)
include hk hq

/-- The tests that are left for a frame whose sender's node number has a peer record. -/
theorem meshFrame_of_peer : s.meshFrame f =
    if q.mac ≠ frameSource f then s.discard .unknownSender
    else if (byteAt f 17).toNat ≠ 15 ∧ (byteAt f 17).toNat ≠ s.mlc.node.val then s.discard .notForUs
    else if q.lastSeq = some (BitVec.ofNat 16 (beAt f 18 2)) then s.discard .repeated
    else s.validMessage k q f := by
  simp only [State.meshFrame, (meshEnabled_iff s).2 h, hf, hk, hq, Bool.not_true, Bool.false_eq_true, if_false]

theorem meshFrame_of_other_mac (hm : q.mac ≠ frameSource f) : s.meshFrame f = s.discard .unknownSender :=
  (meshFrame_of_peer h hf hk hq).trans (if_pos hm)

variable (hm : q.mac = frameSource f)
include hm

theorem meshFrame_of_other_receiver (hr : (byteAt f 17).toNat ≠ 15 ∧ (byteAt f 17).toNat ≠ s.mlc.node.val) :
    s.meshFrame f = s.discard .notForUs :=
  (meshFrame_of_peer h hf hk hq).trans ((if_neg (not_not_intro hm)).trans (if_pos hr))

variable (hr : (byteAt f 17).toNat = 15 ∨ (byteAt f 17).toNat = s.mlc.node.val)
include hr

/-- A frame for this node is discarded when its sequence number is its sender's last one, and else is valid. -/
theorem meshFrame_of_received : s.meshFrame f = if q.lastSeq = some (BitVec.ofNat 16 (beAt f 18 2)) then
    s.discard .repeated else s.validMessage k q f :=
  (meshFrame_of_peer h hf hk hq).trans ((if_neg (not_not_intro hm)).trans (if_neg fun ⟨hb, hn⟩ => hr.elim hb hn))

theorem meshFrame_of_repeated (hs : q.lastSeq = some (BitVec.ofNat 16 (beAt f 18 2))) :
    s.meshFrame f = s.discard .repeated := (meshFrame_of_received h hf hk hq hm hr).trans (if_pos hs)

variable (hs : q.lastSeq ≠ some (BitVec.ofNat 16 (beAt f 18 2)))
include hs

/-- A frame that passes all tests is a valid message. -/
theorem meshFrame_of_valid : s.meshFrame f = (markedHeard s k q f).deliver (messageOf q f) :=
  (meshFrame_of_received h hf hk hq hm hr).trans (if_neg hs)

theorem meshFrame_of_beacon (hb : (byteAt f 15).toNat = 1) : s.meshFrame f = markedHeard s k q f :=
  (meshFrame_of_valid h hf hk hq hm hr hs).trans (deliver_of_beacon hb)

theorem meshFrame_of_handoff (h1 : 1 < (byteAt f 15).toNat) (h12 : (byteAt f 15).toNat < 12) :
    let u := markedHeard s k q f
    s.meshFrame f = { u with hoc := { u.hoc with messages := s.hoc.messages ++ [messageOf q f] } } := by
  rw [meshFrame_of_valid h hf hk hq hm hr hs, deliver_of_handoff h1 h12, markedHeard_hoc_messages]

theorem meshFrame_of_update (h12 : 12 ≤ (byteAt f 15).toNat) :
    let u := markedHeard s k q f
    s.meshFrame f = { u with ups := { u.ups with messages := s.ups.messages ++ [messageOf q f] } } := by
  rw [meshFrame_of_valid h hf hk hq hm hr hs, deliver_of_update h12, markedHeard_ups_messages]

end Frame

theorem exec_meshControlFrame {s : State} {f : List Byte} {rest : List (List Byte)} (h : s.mlc.frames = f :: rest) :
    exec .meshControlFrame s = .next (State.meshFrame { s with mlc := { s.mlc with frames := rest } } f) := by
  change execMeshControlFrame s = _
  simp only [execMeshControlFrame, h]

/-! ## Messages sent (R128) -/

theorem pad_eq (n : Nat) {l : List Byte} (h : l.length ≤ n) : pad n l = l ++ List.replicate (n - l.length) 0 := by
  rw [pad, List.take_append, List.take_of_length_le h, List.take_replicate, Nat.min_eq_left (Nat.sub_le _ _)]

theorem messageFrame_eq (s : State) (dest : Mac) (receiver kind : Nat) (body : List Byte) :
    let f := macBytes dest ++ macBytes s.mlc.mac ++ be 2 s.mlc.etherType.toNat
      ++ [1, byteOf kind, byteOf s.mlc.node.val, byteOf receiver] ++ be 2 s.mlc.seq.toNat ++ be 2 body.length ++ body
    s.messageFrame dest receiver kind body = f ++ List.replicate (60 - f.length) 0 := by
  intro f
  by_cases h : f.length < 60
  · exact (if_pos h).trans (pad_eq 60 (Nat.le_of_lt h))
  · rw [Nat.sub_eq_zero_of_le (Nat.not_lt.1 h), List.replicate_zero, List.append_nil]
    exact if_neg h

section Send
variable {s : State} {dest : Node} (kind : Nat) (body : List Byte)

theorem send_of_none (h : ¬(s.mlc.set = true ∧ s.mlc.enable = true) ∨ s.findPeer dest.val = none) :
    s.send dest kind body = (s, .notSent) := by
  unfold State.send
  split
  · next he =>
    rw [h.resolve_left (not_not_intro ((meshEnabled_iff s).1 he))]
  · rfl

theorem send_of_peer {q : Peer} (h : s.mlc.set = true ∧ s.mlc.enable = true) (hq : s.findPeer dest.val = some q) :
    s.send dest kind body = s.sendFrame (some dest) kind (s.messageFrame q.mac dest.val kind body) := by
  simp only [State.send, (meshEnabled_iff s).2 h, if_true, hq]

theorem sendBeacon_of_on (h : s.mlc.set = true ∧ s.mlc.enable = true) :
    s.sendBeacon body = (s.sendFrame none kBeacon (s.messageFrame broadcastMac 15 kBeacon body)).1 :=
  if_pos ((meshEnabled_iff s).2 h)

theorem sendBeacon_of_off (h : ¬(s.mlc.set = true ∧ s.mlc.enable = true)) : s.sendBeacon body = s :=
  if_neg (mt (meshEnabled_iff s).1 h)

end Send

/-! ## Beacons (R130) -/

theorem exec_beaconTimer_of_due {s : State} (h : s.mlc.beaconDue = true) : exec .beaconTimer s =
    .next (State.sendBeacon { s with mlc := { s.mlc with beaconDue := false } } s.beaconBody) := by
  change execBeaconTimer s = _
  simp only [execBeaconTimer, h, if_true]

theorem flagBits_three (a b c : Bool) :
    flagBits [a, b, c] = (if a then 1 else 0) + (if b then 2 else 0) + if c then 4 else 0 := by
  cases a <;> cases b <;> cases c <;> rfl

/-- The body of a BEACON as R171 lays it out. -/
theorem beaconBody_eq (s : State) :
    let staging := s.ups.state ≠ .idle
    let flags := (if s.ups.state = .hold then 1 else 0) + (if staging then 2 else 0) +
      if s.ups.state = .complete ∨ s.ups.state = .hold then 4 else 0
    s.beaconBody = [byteOf (s.stt.recs.toList.filter fun r => r.state != .free && r.state != .left).length,
        byteOf flags] ++ be 2 (if staging then s.chunksHeld else 0) ++ be 4 (if staging then s.stagingId.toNat else 0)
      ++ be 4 s.activeId.toNat := by
  simp only [State.beaconBody, load_eq, flagBits_three, holding_iff, bne_iff_ne, Bool.or_eq_true, beq_iff_eq]

theorem activeId_eq (s : State) : s.activeId = if s.fls.slot.active = .a then s.fls.slot.idA else s.fls.slot.idB := by
  unfold State.activeId SlotRecord.idOf
  cases s.fls.slot.active <;> rfl

/-! ## Presence (R131) -/

theorem exec_peerSilent_of_peer {s : State} {n : Node} {k : Fin 7} {q : Peer} (hk : s.peerAt n.val = some k)
    (hq : s.mlc.peers.get k = some q) :
    exec (.peerSilent n) s = .next (if q.silent s.now then s.setPresence k q false .silent else s) := by
  change execPeerSilent n s = _
  simp only [execPeerSilent, hk, hq]

theorem silent_iff (q : Peer) (now : Ms) :
    q.silent now = true ↔ ∃ t, q.present = true ∧ q.lastHeard = some t ∧ pastBy now t 3000 = true := by
  unfold Peer.silent
  cases q.lastHeard <;> simp

/-- What an ABSENT notice does with the offer of one record (R143). -/
def failOffer (n : Node) (u : State) (i : StaIx) : State :=
  match (u.sta i).handoff with
  | some h => if (u.sta i).state = .offering ∧ h.peer = n then u.offerFails i h reasonAbsent false else u
  | none => u

theorem offersFail_eq (s : State) (n : Node) : s.offersFail n = (List.finRange 128).foldl (failOffer n) s := by
  unfold State.offersFail
  congr 1
  funext u i
  unfold failOffer
  split
  · next h hs hh => simp only [hh, hs, true_and]
  · next hn =>
    split
    · next h hh => exact (if_neg fun ⟨hs, _⟩ => hn h hs hh).symm
    · rfl

section Notice
variable {s : State} {n : Node} {rest : List (Node × Bool)}

theorem exec_presenceNotice_of_present (h : s.mlc.presence = (n, true) :: rest) :
    exec .presenceNotice s = .next { s with mlc := { s.mlc with presence := rest } } := by
  change execPresenceNotice s = _
  simp only [execPresenceNotice, h, if_true]

theorem exec_presenceNotice_of_absent (h : s.mlc.presence = (n, false) :: rest) : exec .presenceNotice s =
    .next (((State.offersFail { s with mlc := { s.mlc with presence := rest } } n).dropServesOf n).sourceGone n) := by
  change execPresenceNotice s = _
  simp only [execPresenceNotice, h, Bool.false_eq_true, if_false]

end Notice

/-- Settles O42: the tests of a frame are taken in their order, each a lemma about `State.meshFrame`; a message sent is
one frame offered to MESH. -/
theorem meshFramesBeaconsAndPresence : Obligations.MeshFramesBeaconsAndPresence := by
  refine ⟨fun s f rest hs => ?_, fun s dest kind body => ⟨fun h => ?_, fun q on hq => ?_, fun on => ?_, fun off => ?_⟩,
    fun s hd => ?_, fun s n k q hk hq => ⟨fun h => ?_, fun h => ?_⟩,
    fun s n rest h => exec_presenceNotice_of_present h, fun s n rest h => ?_, fun s k q present c => rfl,
    fun s a b => ⟨rfl, rfl, rfl, activeId_eq s⟩⟩
  · intro t counted d isOn receiver seq
    rw [exec_meshControlFrame hs]
    refine ⟨fun off => congrArg _ (meshFrame_of_off off), fun on hf => congrArg _ (meshFrame_of_malformed on hf),
      formOk_iff f, fun on hf => ⟨fun hk => congrArg _ (meshFrame_of_no_peer on hf hk), fun k q hk hq =>
        ⟨fun hm => congrArg _ (meshFrame_of_other_mac on hf hk hq hm), fun hm =>
          ⟨fun hr => congrArg _ (meshFrame_of_other_receiver on hf hk hq hm hr), fun hr => ?_⟩⟩⟩, ?_⟩
    · exact ⟨fun hs => congrArg _ (meshFrame_of_repeated (s := t) on hf hk hq hm hr hs), fun hs =>
        ⟨fun h1 => congrArg _ (meshFrame_of_beacon (s := t) on hf hk hq hm hr hs h1),
        fun h1 h12 => congrArg _ (meshFrame_of_handoff (s := t) on hf hk hq hm hr hs h1 h12),
        fun h12 => congrArg _ (meshFrame_of_update (s := t) on hf hk hq hm hr hs h12)⟩⟩
    · intro q now kind body
      rfl
  · rw [State.sendTo, send_of_none kind body h]
    exact ⟨rfl, rfl⟩
  · rw [State.sendTo, send_of_peer kind body on hq, messageFrame_eq]
    exact ⟨rfl, rfl⟩
  · rw [sendBeacon_of_on body on, messageFrame_eq]
    rfl
  · exact sendBeacon_of_off body off
  · rw [exec_beaconTimer_of_due hd]
    have hbody : s.beaconBody = _ := beaconBody_eq s
    exact congrArg _ (congrArg _ hbody)
  · rw [exec_peerSilent_of_peer hk hq]
    exact congrArg _ (if_pos ((silent_iff q _).2 h))
  · rw [exec_peerSilent_of_peer hk hq]
    refine congrArg _ (if_neg fun hs => ?_)
    obtain ⟨t, hp, ht, hpast⟩ := (silent_iff q _).1 hs
    rcases h with h | h
    · exact absurd (hp.symm.trans h) nofun
    · exact absurd (hpast.symm.trans (h t ht)) nofun
  · rw [exec_presenceNotice_of_absent h]
    dsimp only
    generalize hu : List.foldl _ _ (List.finRange 128) = u
    rw [(offersFail_eq _ n).trans hu]
    rfl

end Sys2Proof.Machine.MeshControlLink
end

section
/-!
PROOFS. The end of an offer (R133, R143, R150) and the handoff id in messages and records (R167, R171): O47.
-/

namespace Sys2Proof.Machine.MeshControlLink

open Sys2Proof Sys2Proof.Machine Sys2Proof.Machine.FlowClassification

/-! ## The record that holds an id (R133) -/

/-- A search over the indices answers what it finds at the first index that gives something. -/
theorem findSome?_finRange_eq_some_iff {n : Nat} {f : Fin n → Option β} {b : β} :
    (List.finRange n).findSome? f = some b ↔ ∃ i, f i = some b ∧ ∀ j < i, f j = none := by
  have hfirst : (List.finRange n).findSome? f = (firstIx (Vector.ofFn f) Option.isSome).bind f := by
    simp only [firstIx, get_ofFn]
    generalize List.finRange n = l
    induction l with
    | nil => rfl
    | cons i l ih => cases e : f i <;> simp [e, ih]
  simp only [hfirst, Option.bind_eq_some_iff, firstIx_eq_some_iff, get_ofFn, Option.isSome_eq_false_iff,
    Option.isNone_iff_eq_none]
  constructor
  · rintro ⟨i, ⟨-, hl⟩, hb⟩; exact ⟨i, hb, hl⟩
  · rintro ⟨i, hb, hl⟩; exact ⟨i, ⟨by rw [hb]; rfl, hl⟩, hb⟩

/-- What a search can answer whose finds name their own index, for finds that are exactly the pairs of `P`. -/
theorem findSome?_finRange_spec {n : Nat} {f : Fin n → Option (Fin n × β)} (P : Fin n → β → Prop)
    (h : ∀ i j b, f i = some (j, b) ↔ i = j ∧ P j b) :
    (∀ i b, (List.finRange n).findSome? f = some (i, b) ↔ P i b ∧ ∀ j < i, ∀ c, ¬P j c) ∧
    ((List.finRange n).findSome? f = none ↔ ∀ i b, ¬P i b) := by
  have hnone : ∀ i, f i = none ↔ ∀ b, ¬P i b := fun i => by
    constructor
    · intro hn b hb
      exact absurd (hn.symm.trans ((h i i b).2 ⟨rfl, hb⟩)) nofun
    · intro hn
      cases e : f i with
      | none => rfl
      | some x =>
        obtain ⟨rfl, hx⟩ := (h i x.1 x.2).1 e
        exact absurd hx (hn _)
  refine ⟨fun i b => ?_, ?_⟩
  · simp only [findSome?_finRange_eq_some_iff, h, hnone]
    constructor
    · rintro ⟨_, ⟨rfl, hb⟩, hl⟩; exact ⟨hb, hl⟩
    · rintro ⟨hb, hl⟩; exact ⟨i, ⟨rfl, hb⟩, hl⟩
  · simp only [List.findSome?_eq_none_iff, List.mem_finRange, true_implies, hnone]

/-- A record in one of the states of `p` whose sub-record `h` holds the id, and names the peer where one is asked. -/
def HoldsHandoff (s : State) (id : HandoffId) (p : StaState → Bool) (peer : Option Node) (i : StaIx) (h : Handoff) :
    Prop :=
  (s.sta i).handoff = some h ∧ p (s.sta i).state = true ∧ h.id = id ∧ (peer = none ∨ peer = some h.peer)

theorem findHandoff_spec (s : State) (id : HandoffId) (p : StaState → Bool) (peer : Option Node) :
    (∀ i h, s.findHandoff id p peer = some (i, h) ↔ HoldsHandoff s id p peer i h ∧
      ∀ j < i, ∀ g, ¬HoldsHandoff s id p peer j g) ∧
    (s.findHandoff id p peer = none ↔ ∀ i h, ¬HoldsHandoff s id p peer i h) := by
  refine findSome?_finRange_spec _ fun i j g => ?_
  unfold HoldsHandoff
  dsimp only
  split
  · next h hh =>
    simp only [Option.ite_none_right_eq_some, Bool.and_eq_true, Bool.or_eq_true, beq_iff_eq, Option.isNone_iff_eq_none,
      Option.some.injEq]
    constructor
    · rintro ⟨⟨⟨hp, hid⟩, hpeer⟩, ⟨⟩⟩
      exact ⟨rfl, hh, hp, hid, hpeer⟩
    · rintro ⟨rfl, hg, hp, hid, hpeer⟩
      cases hh.symm.trans hg
      exact ⟨⟨⟨hp, hid⟩, hpeer⟩, rfl⟩
  · next hh =>
    refine ⟨nofun, ?_⟩
    rintro ⟨rfl, hg, -⟩
    cases hh.symm.trans hg

/-- The search for an id does not read the messages that wait. -/
theorem findHandoff_messages (s : State) (l : List Msg) (id : HandoffId) (p : StaState → Bool) (peer : Option Node) :
    State.findHandoff { s with hoc := { s.hoc with messages := l } } id p peer = s.findHandoff id p peer := rfl

/-- A LEFT record whose settle exchange holds the id. -/
def HoldsSettle (s : State) (id : HandoffId) (i : StaIx) (f : Forward) : Prop :=
  (s.sta i).state = .left ∧ (s.sta i).forward = some f ∧ ∃ w, f.settle = some w ∧ w.id = id

theorem findSettle_spec (s : State) (id : HandoffId) :
    (∀ i f, s.findSettle id = some (i, f) ↔ HoldsSettle s id i f ∧ ∀ j < i, ∀ g, ¬HoldsSettle s id j g) ∧
    (s.findSettle id = none ↔ ∀ i f, ¬HoldsSettle s id i f) := by
  refine findSome?_finRange_spec _ fun i j g => ?_
  unfold HoldsSettle
  split
  · next f hs hf =>
    split
    · next w hw =>
      simp only [Option.ite_none_right_eq_some, Option.some.injEq]
      constructor
      · rintro ⟨hid, ⟨⟩⟩
        exact ⟨rfl, hs, hf, w, hw, hid⟩
      · rintro ⟨rfl, -, hg, v, hv, hid⟩
        cases hf.symm.trans hg
        cases hw.symm.trans hv
        exact ⟨hid, rfl⟩
    · next hw =>
      refine ⟨nofun, ?_⟩
      rintro ⟨rfl, -, hg, v, hv, -⟩
      cases hf.symm.trans hg
      cases hw.symm.trans hv
  · next hn =>
    refine ⟨nofun, ?_⟩
    rintro ⟨rfl, hs, hf, -⟩
    exact absurd hf (hn _ hs)

theorem holdsId_iff (id : HandoffId) (r : Station) : r.holdsId id = true ↔ (∃ h, r.handoff = some h ∧ h.id = id) ∨
    ∃ f w, r.forward = some f ∧ f.settle = some w ∧ w.id = id := by
  unfold Station.holdsId
  cases r.handoff <;> rcases r.forward with _ | ⟨_, _, _ | _⟩ <;> simp

/-! ## The handoff id in a message (R167, R171) -/

theorem idMacBody_bytes (id : HandoffId) (mac : Mac) :
    let count := fun k => (BitVec.ofNat 8 (id.count.toNat / 256 ^ k) : Byte)
    let byte := fun k => (BitVec.ofNat 8 (mac.toNat / 256 ^ k) : Byte)
    idMacBody id mac = [id.node, 0, count 1, count 0, byte 5, byte 4, byte 3, byte 2, byte 1, byte 0] ∧
    id.beBytes = [id.node, 0, count 1, count 0] ∧ id.leBytes = [id.node, 0, count 0, count 1] := by
  simp [idMacBody, HandoffId.beBytes, HandoffId.leBytes, macBytes, be, le, Nat.div_div_eq_div_mul]

/-- An id and a MAC sent in a body are read back from it. -/
theorem id_mac_of_body {m : Msg} {id : HandoffId} {mac : Mac} {rest : List Byte}
    (h : m.body = idMacBody id mac ++ rest) :
    m.id = id ∧ m.mac = mac := by
  have hcount : beAt m.body 2 2 = id.count.toNat := by
    have hb : m.body = [id.node, 0] ++ (be 2 id.count.toNat ++ (macBytes mac ++ rest)) := by
      simp only [h, idMacBody, HandoffId.beBytes, List.append_assoc]
    rw [hb]
    exact beAt_be [id.node, 0] _ 2 _ id.count.isLt
  have hmac : beAt m.body 4 6 = mac.toNat := by
    have hb : m.body = id.beBytes ++ (be 6 mac.toNat ++ rest) := by
      simp only [h, idMacBody, macBytes, List.append_assoc]
    rw [hb]
    exact beAt_be id.beBytes _ 6 _ mac.isLt
  refine ⟨?_, ?_⟩
  · rw [Msg.id, handoffIdAt, hcount, h, BitVec.ofNat_toNat, BitVec.setWidth_eq]
    rfl
  · rw [Msg.mac, macAt, hmac, BitVec.ofNat_toNat, BitVec.setWidth_eq]

/-! ## The end of an offer (R143) -/

theorem freeStation_now (s : State) (i : StaIx) : (s.freeStation i).now = s.now := by
  rw [freeStation_eq]
  rfl

/-- The record whose offer has failed: freed when departed, else ACTIVE with its back-off. -/
def offerEnded (s : State) (i : StaIx) : State :=
  if (s.sta i).departed then s.freeStation i
  else s.setSta i { ((s.sta i).backOff s.now) with state := .active, handoff := none, runOn := 0 }

theorem offerEnded_now (s : State) (i : StaIx) : (offerEnded s i).now = s.now := by
  unfold offerEnded
  split
  · exact freeStation_now s i
  · rfl

/-- HANDOFF_FAILED is timed at the failure, and the waiting FORCE_HANDOFF is answered after it. -/
theorem offerFails_eq (s : State) (i : StaIx) (h : Handoff) (reason : Byte) (timedOut : Bool) :
    let t := offerEnded s i
    let u := { t with exu := { t.exu with arrivals := t.exu.arrivals ++
      [(⟨.handoffFailed, i.val, s.now, failedBody h reason⟩ : Report)] } }
    s.offerFails i h reason timedOut =
      if timedOut then u.endForced i .timeout 0 else u.endForced i .declined reason := by
  intro t u
  have hu : t.giveReport .handoffFailed i.val (failedBody h reason) = u := by
    rw [State.giveReport, offerEnded_now]
  rw [← hu]
  rfl

/-! ## ACCEPT and DECLINE (R143) -/

section Answer
variable {s : State} {m : Msg} {rest : List Msg} (hm : s.hoc.messages = m :: rest)
include hm

section Accept
variable (hk : m.kind = kAccept)
include hk

theorem exec_accept_of_offering {i : StaIx} {h : Handoff}
    (hf : s.findHandoff m.id (· == .offering) (some m.sender) = some (i, h)) :
    exec .accept s = .next (State.beginMove { s with hoc := { s.hoc with messages := rest } } i h) := by
  change execAccept s = _
  simp only [execAccept, workMessage_of_cons _ hm hk, findHandoff_messages, hf]

/-- An ACCEPT that finds no offer is discarded for an id that a record holds, and answered for any other. -/
theorem exec_accept_of_none (hf : s.findHandoff m.id (· == .offering) (some m.sender) = none) :
    let t := { s with hoc := { s.hoc with messages := rest } }
    exec .accept s = .next (if s.stt.recs.toList.any (Station.holdsId m.id) then t
      else t.sendTo m.sender kWithdraw (idMacBody m.id m.mac)) := by
  change execAccept s = _
  simp only [execAccept, workMessage_of_cons _ hm hk, findHandoff_messages, hf]

end Accept

section Decline
variable (hk : m.kind = kDecline)
include hk

theorem exec_decline_of_offering {i : StaIx} {h : Handoff}
    (hf : s.findHandoff m.id (· == .offering) (some m.sender) = some (i, h)) : exec .decline s =
    .next (State.offerFails { s with hoc := { s.hoc with messages := rest } } i h (byteAt m.body 10) false) := by
  change execDecline s = _
  simp only [execDecline, workMessage_of_cons _ hm hk, findHandoff_messages, hf]

theorem exec_decline_of_none (hf : s.findHandoff m.id (· == .offering) (some m.sender) = none) :
    exec .decline s = .next { s with hoc := { s.hoc with messages := rest } } := by
  change execDecline s = _
  simp only [execDecline, workMessage_of_cons _ hm hk, findHandoff_messages, hf]

end Decline

end Answer

/-! ## FORCE_HANDOFF (R150) -/

/-- The states of the node in which no handoff of a record to a peer may be forced. -/
def ForceRefused (s : State) (i : StaIx) (n : Node) : Prop :=
  (s.sta i).state = .free ∨ s.ups.state = .hold ∨ s.meshEnabled = false ∨ s.peerPresent n = false

theorem forceRefused_iff (s : State) (i : StaIx) (n : Node) :
    (decide ((s.sta i).state = .free) || s.holding || !s.meshEnabled || !s.peerPresent n) = true ↔
      ForceRefused s i n := by
  simp only [Bool.or_eq_true, decide_eq_true_eq, holding_iff, Bool.not_eq_true', or_assoc, ForceRefused]

section Force
variable {s : State} {o : Order} (ho : s.freshHead .hoc 0x71 = some o)
include ho

theorem exec_forceHandoff_of_gt (h : 127 < o.u8 0 ∨ 7 < o.u8 1) :
    exec .forceHandoff s = .next (s.refuse o .badParam) := by
  change execForceHandoff s = _
  simp only [execForceHandoff, workOrder_of_some _ ho]
  congr 1
  split
  · next i n hi hn =>
    have hi' := finOf_some hi
    have hn' := finOf_some hn
    omega
  · rfl

variable {i : StaIx} {n : Node} (hi : o.u8 0 = i.val) (hn : o.u8 1 = n.val)
include hi hn

theorem exec_forceHandoff_of_refused (h : ForceRefused s i n) :
    exec .forceHandoff s = .next (s.refuse o .refusedState) := by
  change execForceHandoff s = _
  simp only [execForceHandoff, workOrder_of_some _ ho, hi, hn, finOf_val]
  exact congrArg _ (if_pos ((forceRefused_iff s i n).2 h))

variable (h : ¬ForceRefused s i n)
include h

theorem exec_forceHandoff_of_busy (hb : (s.sta i).state ≠ .active ∨ (s.sta i).handoff.isSome = true) :
    exec .forceHandoff s = .next (s.refuse o .again) := by
  have hr : ¬(decide ((s.sta i).state = .active) && (s.sta i).handoff.isNone) = true := fun hc => by
    obtain ⟨ha, hnone⟩ := Bool.and_eq_true_iff.1 hc
    rcases hb with hb | hb
    · exact hb (of_decide_eq_true ha)
    · rw [Option.isNone_iff_eq_none.1 hnone] at hb
      cases hb
  change execForceHandoff s = _
  simp only [execForceHandoff, workOrder_of_some _ ho, hi, hn, finOf_val]
  exact congrArg _ ((if_neg (mt (forceRefused_iff s i n).1 h)).trans (if_neg hr))

theorem exec_forceHandoff_of_ready (hs : (s.sta i).state = .active) (hh : (s.sta i).handoff = none) :
    let t := (s.mark o.id .working).beginOffer i n
    exec .forceHandoff s = .next { t with hoc := { t.hoc with forced := some (i, o.id) } } := by
  have hr : (decide ((s.sta i).state = .active) && (s.sta i).handoff.isNone) = true := by simp [hs, hh]
  change execForceHandoff s = _
  simp only [execForceHandoff, workOrder_of_some _ ho, hi, hn, finOf_val]
  exact congrArg _ ((if_neg (mt (forceRefused_iff s i n).1 h)).trans (if_pos hr))

end Force

/-- Settles O47: a search for an id names the first record that holds it (`findSome?_finRange_spec`), and each
outcome of ACCEPT, DECLINE and FORCE_HANDOFF is one equation of its command. -/
theorem offerEndsInAMoveOrFails : Obligations.OfferEndsInAMoveOrFails := by
  refine ⟨fun s m rest hm hk => ⟨fun i h hf => ?_, fun hf hr => ?_, fun hf hr => ?_⟩, findHandoff_spec,
    fun s m rest hm hk => ⟨fun i h => exec_decline_of_offering hm hk, exec_decline_of_none hm hk⟩,
    offerFails_eq,
    fun s o ho => ⟨exec_forceHandoff_of_gt ho, fun i n hi hn => ⟨exec_forceHandoff_of_refused ho hi hn,
      exec_forceHandoff_of_busy ho hi hn, exec_forceHandoff_of_ready ho hi hn⟩⟩,
    fun id mac => ?_, fun m => ⟨rfl, half_beAt _ _, toNat_ofNat_beAt 48 6 (by decide) _ _⟩, holdsId_iff,
    findSettle_spec, meshEnabled_iff⟩
  · exact exec_accept_of_offering hm hk hf
  · rw [exec_accept_of_none hm hk hf]
    exact congrArg _ (if_pos (List.any_eq_true.2 hr))
  · rw [exec_accept_of_none hm hk hf]
    refine congrArg _ (if_neg fun ha => ?_)
    obtain ⟨r, hmem, hid⟩ := List.any_eq_true.1 ha
    exact absurd (hid.symm.trans (hr r hmem)) nofun
  · obtain ⟨hbody, hbe, hle⟩ := idMacBody_bytes id mac
    exact ⟨hbody, hbe, hle, fun m rest => id_mac_of_body⟩

end Sys2Proof.Machine.MeshControlLink
end

section
/-!
PROOFS. Retry waits and the deadlines of a handoff (R132, R145, R146, R147, R149): O48.
-/

namespace Sys2Proof.Machine.MeshControlLink

open Sys2Proof Sys2Proof.Machine

/-! ## Retry waits (R132) -/

/-- A step that does one thing below a limit and another from the limit on. -/
theorem next_ite_lt (n limit : Nat) (a b : State) :
    (n < limit → (.next (if n < limit then a else b) : Result) = .next a) ∧
    (limit ≤ n → (.next (if n < limit then a else b) : Result) = .next b) :=
  ⟨fun h => congrArg _ (if_pos h), fun h => congrArg _ (if_neg (Nat.not_lt.2 h))⟩

section Retry
variable {s : State} {i : StaIx} {h : Handoff} {f : Forward} {w : SettleWait} {t : Ms}

theorem exec_retryWaitExpiry_of_offering (hs : (s.sta i).state = .offering) (hh : (s.sta i).handoff = some h)
    (ht : reached s.sck.ms h.deadline = true) : exec (.retryWaitExpiry i) s = .next (s.offerRetry i h) := by
  change execRetryWaitExpiry i s = _
  simp only [execRetryWaitExpiry, Station.retryAt, hs, hh, Option.map_some, State.now, ht, if_true]

theorem exec_retryWaitExpiry_of_withdrawing (hs : (s.sta i).state = .withdrawing) (hh : (s.sta i).handoff = some h)
    (ht : reached s.sck.ms h.deadline = true) : exec (.retryWaitExpiry i) s = .next (s.withdrawRetry i h) := by
  change execRetryWaitExpiry i s = _
  simp only [execRetryWaitExpiry, Station.retryAt, hs, hh, Option.map_some, State.now, ht, if_true]

theorem exec_retryWaitExpiry_of_active (hs : (s.sta i).state = .active) (hh : (s.sta i).handoff = some h)
    (hw : h.wait = some t) (ht : reached s.sck.ms t = true) :
    exec (.retryWaitExpiry i) s = .next (s.confirmRetry i h) := by
  change execRetryWaitExpiry i s = _
  simp only [execRetryWaitExpiry, Station.retryAt, hs, hh, hw, Option.bind_some, State.now, ht, if_true]

theorem exec_retryWaitExpiry_of_left (hs : (s.sta i).state = .left) (hf : (s.sta i).forward = some f)
    (hw : f.settle = some w) (ht : reached s.sck.ms w.wait = true) :
    exec (.retryWaitExpiry i) s = .next (s.settleRetry i f w) := by
  change execRetryWaitExpiry i s = _
  simp only [execRetryWaitExpiry, Station.retryAt, hs, hf, hw, Option.bind_some, Option.map_some, State.now, ht, if_true]

end Retry

/-! ## Deadlines (R145 to R147, R149) -/

section Deadline
variable {s : State} {i : StaIx} {h : Handoff} {f : Forward}

theorem pastDeadline_of_reached {p : StaState} (hs : (s.sta i).state = p) (hh : (s.sta i).handoff = some h)
    (ht : reached s.sck.ms h.deadline = true) : s.pastDeadline i p = some h := by
  simp only [State.pastDeadline, hs, hh, if_true, Option.filter_some, State.now, ht]

theorem pastDeadline_of_waiting (p : StaState) (hh : (s.sta i).handoff = some h)
    (ht : reached s.sck.ms h.deadline = false) : s.pastDeadline i p = none := by
  simp only [State.pastDeadline, hh, Option.filter_some, State.now, ht, Bool.false_eq_true, if_false, ite_self]

theorem exec_moveDeadline_of_some (h' : s.pastDeadline i .moving = some h) : exec (.moveDeadline i) s =
    .next ((s.setSta i { s.sta i with
      state := .withdrawing
      handoff := some { h with tries := 1, deadline := s.sck.ms + 100 } }).sendTo h.peer kWithdraw
        (idMacBody h.id (s.sta i).mac)) := by
  change execMoveDeadline i s = _
  simp only [execMoveDeadline, h']
  rfl

theorem exec_settleWaitEnd_of_some (h' : s.pastDeadline i .active = some h) :
    exec (.settleWaitEnd i) s = .next (s.setSta i { s.sta i with handoff := none }) := by
  change execSettleWaitEnd i s = _
  simp only [execSettleWaitEnd, h']

theorem exec_arrivalDeadline_of_some (h' : s.pastDeadline i .reserved = some h) : exec (.arrivalDeadline i) s =
    .next ((s.freeStation i).giveReport .reservationExpired i.val ([byteOf h.peer.val] ++ h.id.leBytes)) := by
  change execArrivalDeadline i s = _
  simp only [execArrivalDeadline, h']

/-- Before the deadline of a sub-record none of the three acts, whatever the state of the record. -/
theorem exec_deadlines_of_waiting (hh : (s.sta i).handoff = some h) (ht : reached s.sck.ms h.deadline = false) :
    exec (.moveDeadline i) s = .next s ∧ exec (.settleWaitEnd i) s = .next s ∧
      exec (.arrivalDeadline i) s = .next s := by
  refine ⟨?_, ?_, ?_⟩
  · change execMoveDeadline i s = _
    simp only [execMoveDeadline, pastDeadline_of_waiting .moving hh ht]
  · change execSettleWaitEnd i s = _
    simp only [execSettleWaitEnd, pastDeadline_of_waiting .active hh ht]
  · change execArrivalDeadline i s = _
    simp only [execArrivalDeadline, pastDeadline_of_waiting .reserved hh ht]

theorem exec_graceDeadline_of_left (hs : (s.sta i).state = .left) (hf : (s.sta i).forward = some f) :
    exec (.graceDeadline i) s = .next (if reached s.sck.ms f.grace then
      (s.freeStation i).giveReport .stationGone i.val [byteOf f.peer.val] else s) := by
  change execGraceDeadline i s = _
  simp only [execGraceDeadline, hs, hf]
  rfl

end Deadline

/-- Settles O48: each exchange is found by the state of its record, and its retry is split by the sends made; a deadline
is read through `State.pastDeadline`. -/
theorem handoffTimersRetryAndEndMoves : Obligations.HandoffTimersRetryAndEndMoves := by
  refine ⟨fun s i => ⟨fun h hs hh ht => ?_, fun h hs hh ht => ?_, fun h t hs hh hw ht => ?_, fun f w hs hf hw ht => ?_⟩,
    fun s i => ⟨fun h hh ht => ⟨fun hs => ?_, fun hs => ?_, fun hs => ?_⟩, fun h => exec_deadlines_of_waiting,
      fun f hs hf => ?_⟩, fun id mac u1 day => rfl, fun s kind subject body => rfl⟩
  · rw [exec_retryWaitExpiry_of_offering hs hh ht]
    exact next_ite_lt h.tries 3 _ _
  · rw [exec_retryWaitExpiry_of_withdrawing hs hh ht]
    exact next_ite_lt h.tries 3 _ _
  · rw [exec_retryWaitExpiry_of_active hs hh hw ht]
    exact next_ite_lt h.tries 3 _ _
  · rw [exec_retryWaitExpiry_of_left hs hf hw ht]
    exact next_ite_lt w.tries 3 _ _
  · exact exec_moveDeadline_of_some (pastDeadline_of_reached hs hh ht)
  · exact exec_settleWaitEnd_of_some (pastDeadline_of_reached hs hh ht)
  · exact exec_arrivalDeadline_of_some (pastDeadline_of_reached hs hh ht)
  · rw [exec_graceDeadline_of_left hs hf]
    exact ⟨fun h => congrArg _ (if_pos h), fun h => congrArg _ (if_neg (Bool.eq_false_iff.1 h))⟩

end Sys2Proof.Machine.MeshControlLink
end

section
/-!
PROOFS. The configuration of the handoff, the check event and the start of a query (R135, R136, R138): O43.
-/

namespace Sys2Proof.Machine.RoomHandoff

open Sys2Proof Sys2Proof.Machine Sys2Proof.Machine.FlowClassification Sys2Proof.Machine.StationRecords
  Sys2Proof.Machine.MeshControlLink

/-! ## SET_ROAMING (R135) -/

/-- The ten values as the order gives them, each clamped to its range. -/
theorem roamingOf_eq (o : Order) : roamingOf o =
    { checkInterval := min 2000 (max 50 (o.u16 0)), trigger := min (-40) (max (-90) (signed16 (o.u16 2)))
      runOn := min 20 (max 1 (o.u8 4)), listenWindow := min 1000 (max 100 (o.u16 5))
      queryDeadline := max (min 1000 (max 100 (o.u16 5)) + 100) (min 2000 (max 200 (o.u16 7)))
      loadWeight := min 64 (o.u8 9), baseMargin := min 20 (o.u8 10), gameExtra := min 20 (o.u8 11)
      critical := min (-50) (max (-85) (signed16 (o.u16 12))), arrivalWindow := min 60000 (max 2000 (o.u16 14)) } := by
  simp only [roamingOf, clamp_zero]
  rfl

theorem exec_setRoaming {s : State} {o : Order} (h : s.freshHead .hoc 0x70 = some o) :
    exec .setRoaming s = .next (State.accept { s with hoc := { s.hoc with
      roaming := roamingOf o, checkAt := s.sck.ms + BitVec.ofNat 32 (roamingOf o).checkInterval } } o
      (roamingOf o).bytes) := by
  change execSetRoaming s = _
  rw [execSetRoaming, workOrder_of_some _ h]
  rfl

/-! ## The check event (R136) -/

theorem exec_checkEvent_of_due {s : State} (h : s.checkDue = true) : exec .checkEvent s =
    .next ((List.finRange 128).foldl State.checkStation { s with hoc := { s.hoc with
      checkAt := s.hoc.checkAt + BitVec.ofNat 32 s.hoc.roaming.checkInterval } }) := by
  change execCheckEvent s = _
  rw [execCheckEvent, if_pos h]
  rfl

/-- What lets a record's query start (R136 step 3): its run-on, its re-query time, no hold and the mesh. -/
theorem queryStarts_iff (s : State) (r : Station) : s.queryStarts r = true ↔
    s.hoc.roaming.runOn ≤ r.runOn ∧ reached s.sck.ms r.nextQuery = true ∧ s.ups.state ≠ .hold ∧
      s.mlc.set = true ∧ s.mlc.enable = true := by
  simp only [State.queryStarts, Bool.and_eq_true, decide_eq_true_eq, Bool.not_eq_true', ← Bool.not_eq_true s.holding,
    holding_iff, meshEnabled_iff, and_assoc, ne_eq]
  rfl

section Check
variable {s : State} {i : StaIx} {avg : Int}

theorem checkStation_of_unchecked
    (h : (s.sta i).state ≠ .active ∨ (s.sta i).handoff.isSome = true ∨ (s.sta i).signal = none) :
    s.checkStation i = s := by
  simp only [State.checkStation]
  split
  · next hs hh hg => simp [hs, hh, hg] at h
  · rfl

theorem checkStation_of_active (hs : (s.sta i).state = .active) (hh : (s.sta i).handoff = none)
    (hg : (s.sta i).signal = some avg) : s.checkStation i =
      if s.queryStarts ((s.sta i).checked s.hoc.roaming avg) then
        (s.setSta i ((s.sta i).checked s.hoc.roaming avg)).startQuery i
      else s.setSta i ((s.sta i).checked s.hoc.roaming avg) := by
  simp only [State.checkStation, hs, hh, hg, State.setSta_sta_same]
  rfl

end Check

/-! ## The PRESENT peers and the start of a query (R136 step 3, R138) -/

theorem peerPresent_iff (s : State) (n : Node) :
    s.peerPresent n = true ↔ ∃ q, s.findPeer n.val = some q ∧ q.present = true := by
  unfold State.peerPresent
  cases s.findPeer n.val <;> simp

/-- The peer a node number names, where it is PRESENT. -/
def presentNode (s : State) (n : Nat) : Option Node := ((s.findPeer n).filter Peer.present).map Peer.node

theorem presentPeers_eq (s : State) : s.presentPeers = (List.range 8).filterMap (presentNode s) := by
  unfold State.presentPeers
  congr 1
  funext n
  unfold presentNode
  cases s.findPeer n with
  | none => rfl
  | some q => exact (apply_ite (Option.map Peer.node) (q.present = true) (some q) none).symm

/-- The peer found under a node number has that number. -/
theorem findPeer_node {s : State} {n : Nat} {q : Peer} (h : s.findPeer n = some q) : q.node.val = n := by
  simpa using List.find?_some h

theorem presentNode_eq_some_iff (s : State) (k : Nat) (n : Node) :
    presentNode s k = some n ↔ n.val = k ∧ s.peerPresent n = true := by
  simp only [presentNode, Option.map_eq_some_iff, Option.filter_eq_some_iff, peerPresent_iff]
  constructor
  · rintro ⟨q, ⟨hq, hp⟩, rfl⟩
    have hk := findPeer_node hq
    exact ⟨hk, q, hk ▸ hq, hp⟩
  · rintro ⟨rfl, q, hq, hp⟩
    exact ⟨q, ⟨hq, hp⟩, Fin.ext (findPeer_node hq)⟩

theorem mem_presentPeers (s : State) (n : Node) : n ∈ s.presentPeers ↔ s.peerPresent n = true := by
  simp only [presentPeers_eq, List.mem_filterMap, presentNode_eq_some_iff, List.mem_range]
  exact ⟨fun ⟨k, _, _, hp⟩ => hp, fun hp => ⟨n.val, n.isLt, rfl, hp⟩⟩

/-- The PRESENT peers stand in rising node order. -/
theorem presentPeers_sorted (s : State) : s.presentPeers.Pairwise (· < ·) := by
  rw [presentPeers_eq, List.pairwise_filterMap]
  refine List.pairwise_lt_range.imp fun hjk m hm n hn => ?_
  obtain ⟨rfl, -⟩ := (presentNode_eq_some_iff _ _ _).1 hm
  obtain ⟨rfl, -⟩ := (presentNode_eq_some_iff _ _ _).1 hn
  exact hjk

/-- Settles O43: a check splits by the record's state, sub-record and average, then by the conditions of its query; a
query by whether a peer is PRESENT. -/
theorem roamingIsSetAndChecked : Obligations.RoamingIsSetAndChecked := by
  refine ⟨fun s o ho => ?_, fun s hc ht => ?_, fun s i => checkStation_of_unchecked, fun s i avg hs hh hg => ?_,
    fun s => ⟨presentPeers_sorted s, mem_presentPeers s⟩, fun s i => ⟨fun h => if_pos h, fun h => if_neg h⟩,
    fun n => rfl, peerPresent_iff⟩
  · rw [exec_setRoaming ho, roamingOf_eq]
    rfl
  · exact exec_checkEvent_of_due (Bool.and_eq_true_iff.2 ⟨hc, ht⟩)
  · rw [checkStation_of_active hs hh hg]
    have hstarts := queryStarts_iff s ((s.sta i).checked s.hoc.roaming avg)
    exact ⟨fun h => if_pos (hstarts.2 h), fun h => if_neg (mt hstarts.1 h)⟩

end Sys2Proof.Machine.RoomHandoff
end

section
/-!
PROOFS. The update window and the grant of an install (R151, R164): O59.
-/

namespace Sys2Proof.Machine.RoomHandoff

open Sys2Proof Sys2Proof.Machine Sys2Proof.Machine.FlowClassification

/-- An order of the stager is worked once the slot record check has ended (R153). -/
theorem workStager_of_some {k : Byte} {s : State} {o : Order} (f : Order → State → State) (hb : s.fls.boot = .done)
    (ho : s.freshHead .ups k = some o) : workStager k f s = .next (f o s) := by
  simp only [workStager, hb, if_true, ho]

/-! ## SET_UPDATE_WINDOW (R164) -/

section SetWindow
variable {s : State} {o : Order} (hb : s.fls.boot = .done) (ho : s.freshHead .ups 0x85 = some o)
include hb ho

theorem exec_setUpdateWindow_of_bad (h : 1439 < o.u16 1 ∨ 1439 < o.u16 3) :
    exec .setUpdateWindow s = .next (s.refuse o .badParam) := by
  change execSetUpdateWindow s = _
  rw [execSetUpdateWindow, workStager_of_some _ hb ho]
  dsimp only
  rw [if_pos h]

theorem exec_setUpdateWindow_of_minutes (h : o.u16 1 ≤ 1439) (h' : o.u16 3 ≤ 1439) :
    exec .setUpdateWindow s = .next (State.accept { s with ups := { s.ups with
      window := ⟨BitVec.ofNat 7 (o.u8 0), o.u16 1, o.u16 3⟩, holdLimit := clamp 1 120 (o.u8 5)
      gapMin := clamp 5 1000 (o.u16 6), serveGap := max (clamp 5 1000 (o.u16 6)) s.ups.serveGap } } o
      (windowBytes ⟨BitVec.ofNat 7 (o.u8 0), o.u16 1, o.u16 3⟩ ++ [byteOf (clamp 1 120 (o.u8 5))]
        ++ le 2 (clamp 5 1000 (o.u16 6)))) := by
  change execSetUpdateWindow s = _
  rw [execSetUpdateWindow, workStager_of_some _ hb ho]
  dsimp only
  rw [if_neg (not_or.2 ⟨Nat.not_lt.2 h, Nat.not_lt.2 h'⟩)]

end SetWindow

/-! ## The conditions of an install (R164) -/

theorem gameQuiet_iff (s : State) : s.gameQuiet = true ↔ s.flc.lastGame = none ∨
    ∃ t, s.flc.lastGame = some t ∧ pastBy s.sck.ms t (s.flc.quiet * 60000) = true := by
  unfold State.gameQuiet
  cases s.flc.lastGame <;> simp [State.now]

theorem bars_iff (g : StaState) :
    g.bars = true ↔ g = .offering ∨ g = .moving ∨ g = .withdrawing ∨ g = .reserved := by
  cases g <;> simp [StaState.bars]

/-- A move or a reservation is under way. -/
def Moving (s : State) : Prop := ∃ r ∈ s.stt.recs.toList,
  r.state = .offering ∨ r.state = .moving ∨ r.state = .withdrawing ∨ r.state = .reserved

theorem moving_iff (s : State) : (s.stt.recs.toList.any fun r => r.state.bars) = true ↔ Moving s := by
  simp only [List.any_eq_true, bars_iff, Moving]

/-- The update window is open at the clock's weekday and minute. -/
def WindowOpen (s : State) : Prop := s.windowOpen s.ups.window (s.sck.weekday, s.sck.minute) = true

/-- Every condition of an install is met. -/
def InstallReady (s : State) : Prop :=
  s.ups.state = .complete ∧ s.sck.set = true ∧ WindowOpen s ∧ s.gameQuiet = true ∧ ¬Moving s

theorem deferrals_iff (s : State) : s.deferrals.any (·) = true ↔ ¬InstallReady s := by
  simp only [State.deferrals, List.any_cons, List.any_nil, Bool.or_false, Bool.or_eq_true, bne_iff_ne, moving_iff,
    InstallReady, WindowOpen, Classical.not_and_iff_not_or_not, Classical.not_not, Bool.not_eq_true',
    ← Bool.not_eq_true, ne_eq]

/-- Each of five flags stands in its own bit. -/
theorem getLsbD_flagBits (a b c d e : Bool) :
    let x := byteOf (flagBits [a, b, c, d, e])
    x.getLsbD 0 = a ∧ x.getLsbD 1 = b ∧ x.getLsbD 2 = c ∧ x.getLsbD 3 = d ∧ x.getLsbD 4 = e := by
  revert a b c d e
  decide

/-- The detail bits of a deferral show the conditions not met (R164, R169). -/
theorem detail_of_deferral (s : State) :
    let d := byteOf (flagBits s.deferrals)
    (d.getLsbD 0 = true ↔ s.ups.state ≠ .complete) ∧ (d.getLsbD 1 = true ↔ s.sck.set = false) ∧
    (d.getLsbD 2 = true ↔ ¬WindowOpen s) ∧ (d.getLsbD 3 = true ↔ s.gameQuiet = false) ∧
    (d.getLsbD 4 = true ↔ Moving s) := by
  obtain ⟨h0, h1, h2, h3, h4⟩ := getLsbD_flagBits (s.ups.state != .complete) (!s.sck.set)
    (!s.windowOpen s.ups.window (s.sck.weekday, s.sck.minute)) (!s.gameQuiet)
    (s.stt.recs.toList.any fun r => r.state.bars)
  simp only [State.deferrals, h0, h1, h2, h3, h4, moving_iff, WindowOpen, bne_iff_ne, Bool.not_eq_true',
    Bool.not_eq_true, ne_eq, and_self, iff_self]

/-! ## REQUEST_INSTALL (R164) -/

section Request
variable {s : State} {o : Order} (hb : s.fls.boot = .done) (ho : s.freshHead .ups 0x86 = some o)
include hb ho

theorem exec_requestInstall_eq : exec .requestInstall s = .next (if s.holding then s.accept o []
    else if s.deferrals.any (·) then s.finish o.id .deferred (byteOf (flagBits s.deferrals)) []
    else s.grantInstall.accept o []) := by
  change execRequestInstall s = _
  rw [execRequestInstall, workStager_of_some _ hb ho]

theorem exec_requestInstall_of_hold (h : s.ups.state = .hold) :
    exec .requestInstall s = .next (s.accept o []) := by
  rw [exec_requestInstall_eq hb ho, if_pos ((holding_iff s).2 h)]

theorem exec_requestInstall_of_open (h : s.ups.state ≠ .hold) (hr : ¬InstallReady s) :
    exec .requestInstall s = .next (s.finish o.id .deferred (byteOf (flagBits s.deferrals)) []) := by
  rw [exec_requestInstall_eq hb ho, if_neg (mt (holding_iff s).1 h), if_pos ((deferrals_iff s).2 hr)]

theorem exec_requestInstall_of_ready (h : s.ups.state ≠ .hold) (hr : InstallReady s) :
    exec .requestInstall s = .next (s.grantInstall.accept o []) := by
  rw [exec_requestInstall_eq hb ho, if_neg (mt (holding_iff s).1 h),
    if_neg fun hd => (deferrals_iff s).1 hd hr]

end Request

/-- Settles O59: SET_UPDATE_WINDOW splits by its minutes; REQUEST_INSTALL by the hold and by the five conditions, whose
flags are the detail bits. -/
theorem installIsGrantedOrDeferred : Obligations.InstallIsGrantedOrDeferred :=
  ⟨fun _ _ hb ho => ⟨exec_setUpdateWindow_of_bad hb ho, exec_setUpdateWindow_of_minutes hb ho⟩,
    fun s _ hb ho => ⟨exec_requestInstall_of_hold hb ho,
      fun h hr => ⟨_, exec_requestInstall_of_open hb ho h hr, detail_of_deferral s⟩,
      exec_requestInstall_of_ready hb ho⟩, gameQuiet_iff⟩

end Sys2Proof.Machine.RoomHandoff
end

section
/-!
PROOFS. What the rule of the install hold speaks of, the stager's state and the states of the records (R151, R164), and
the operations that leave both. One simp lemma per operation says so: an operation with branches leaves both because the
operations its branches end in do.
-/

namespace Sys2Proof.Machine.RoomHandoff

open Sys2Proof Sys2Proof.Machine Sys2Proof.Machine.FlowClassification Sys2Proof.Machine.AirtimeScheduling

/-- The state of the stager and of every record. -/
def scene (s : State) : Staging × Vector StaState 128 := (s.ups.state, s.stt.recs.map Station.state)

@[simp] theorem scene_mk (l : List Instr) (e : Exu) (f : Frp) (c : Flc) (t : Stt) (k : Sck) (p : Pfe) (m : Mlc)
    (h : Hoc) (u : Ups) (x : Fls) :
    scene ⟨l, e, f, c, t, k, p, m, h, u, x⟩ = (u.state, t.recs.map Station.state) := rfl

@[simp] theorem scene_parts (s : State) : (s.ups.state, s.stt.recs.map Station.state) = scene s := rfl

theorem scene_fst (s : State) : (scene s).1 = s.ups.state := rfl

theorem scene_snd (s : State) (i : StaIx) : (scene s).2.get i = (s.sta i).state := get_map _ _ _

/-- A sweep over the records leaves the scene when its operation does. -/
theorem scene_eachSta {p : Station → Bool} {f : State → StaIx → State} (h : ∀ t i, scene (f t i) = scene t)
    (s : State) : scene (s.eachSta p f) = scene s :=
  State.eachSta_induct (P := fun t => scene t = scene s) (fun t i ht _ => (h t i).trans ht) s rfl

/-- A fold leaves the scene when its operation does. -/
theorem scene_foldl {α : Type} {f : State → α → State} (h : ∀ t a, scene (f t a) = scene t) (l : List α)
    (s : State) : scene (l.foldl f s) = scene s := by
  induction l generalizing s with
  | nil => rfl
  | cons a l ih => rw [List.foldl_cons, ih, h]

/-- A change of every record that leaves their states. -/
theorem states_map {f : Station → Station} (h : ∀ r, (f r).state = r.state) (v : Vector Station 128) :
    (v.map f).map Station.state = v.map Station.state :=
  vector_ext_get fun i => by rw [get_map, get_map, get_map, h]

/-! ## Writes of a record -/

theorem scene_setSta (s : State) (i : StaIx) (r : Station) :
    scene (s.setSta i r) = ((scene s).1, put (scene s).2 i r.state) := by
  refine Prod.ext rfl (vector_ext_get fun j => ?_)
  rw [scene_snd, State.setSta_sta, get_put, scene_snd]
  split <;> rfl

/-- A write that leaves the state of its record. -/
theorem scene_touchSta {s : State} {i : StaIx} {r : Station} (h : r.state = (s.sta i).state) :
    scene (s.setSta i r) = scene s := by
  rw [scene_setSta, h, ← scene_snd, put_get_self]

@[simp] theorem scene_touchGame (s : State) (k : Option StaIx) : scene (s.touchGame k) = scene s := by
  cases k with
  | none => rfl
  | some i =>
    simp only [State.touchGame]
    split
    · rfl
    · exact scene_touchSta rfl

@[simp] theorem scene_addBytes (s : State) (i : StaIx) (n : Nat) : scene (s.addBytes i n) = scene s := by
  simp only [State.addBytes]
  split
  · rfl
  · exact scene_touchSta rfl

@[simp] theorem scene_recomputeGate (s : State) (i : StaIx) : scene (s.recomputeGate i) = scene s := scene_touchSta rfl

@[simp] theorem scene_examineArms (s : State) (i : StaIx) : scene (s.examineArms i) = scene s := by
  simp only [State.examineArms]
  split
  · rfl
  · exact scene_touchSta rfl

@[simp] theorem scene_armStation (s : State) (i : StaIx) (g : Byte) (n : Nat) :
    scene (s.armStation i g n) = scene s := by
  simp only [State.armStation]
  split
  · exact scene_examineArms s i
  · refine (scene_touchSta ?_).trans (scene_examineArms s i)
    rfl

/-! ## Updates of one field -/

@[simp] theorem scene_setEvent (s : State) (e : Event) : scene (s.setEvent e) = scene s := rfl
@[simp] theorem scene_giveReport (s : State) (k : ReportKind) (n : Nat) (b : List Byte) :
    scene (s.giveReport k n b) = scene s := rfl
@[simp] theorem scene_triggerFor (s : State) (p : ProfIx) (c : Cause) : scene (s.triggerFor p c) = scene s := rfl
@[simp] theorem scene_triggerAll (s : State) (c : Cause) (e : Option ClockEvent) :
    scene (s.triggerAll c e) = scene s := rfl
@[simp] theorem scene_notice (s : State) (n : Notice) : scene (s.notice n) = scene s := rfl
@[simp] theorem scene_setProfile (s : State) (p : ProfIx) (x : Profile) : scene (s.setProfile p x) = scene s := rfl
@[simp] theorem scene_mark (s : State) (id : Nat) (p : Progress) : scene (s.mark id p) = scene s := rfl
@[simp] theorem scene_finish (s : State) (id : Nat) (c : Status) (d : Byte) (l : List Byte) :
    scene (s.finish id c d l) = scene s := rfl
@[simp] theorem scene_refuse (s : State) (o : Order) (c : Status) : scene (s.refuse o c) = scene s := rfl
@[simp] theorem scene_accept (s : State) (o : Order) (l : List Byte) : scene (s.accept o l) = scene s := rfl
@[simp] theorem scene_dropBulk (s : State) (id : Nat) : scene (s.dropBulk id) = scene s := rfl
@[simp] theorem scene_halt (s : State) (c : FaultCause) : scene (s.halt c) = scene s := rfl
@[simp] theorem scene_setPort (s : State) (p : PortId) (x : Port) : scene (s.setPort p x) = scene s := rfl
@[simp] theorem scene_count (s : State) (p : PortId) (c : TClass) (k : Counter) : scene (s.count p c k) = scene s := rfl
@[simp] theorem scene_setIngress (s : State) (p : PortId) (x : Option Ingress) :
    scene (s.setIngress p x) = scene s := rfl
@[simp] theorem scene_purgePort (s : State) (p : PortId) (d : Copy → Bool) : scene (s.purgePort p d) = scene s := rfl
@[simp] theorem scene_toEnqueue (s : State) (p : PortId) (x : Ingress) (l : List Pending) :
    scene (s.toEnqueue p x l) = scene s := rfl
@[simp] theorem scene_takeBuffer (s : State) : scene s.takeBuffer = scene s := rfl
@[simp] theorem scene_returnBuffers (s : State) (n : Nat) : scene (s.returnBuffers n) = scene s := rfl
@[simp] theorem scene_dropAddresses (s : State) (d : AddrEntry → Bool) : scene (s.dropAddresses d) = scene s := rfl
@[simp] theorem scene_placeFlow (s : State) (f : Flow) : scene (s.placeFlow f) = scene s := rfl
@[simp] theorem scene_dropFlows (s : State) (d : Flow → Bool) : scene (s.dropFlows d) = scene s := rfl
@[simp] theorem scene_writeRule (s : State) (i : Fin 64) (r : Rule) : scene (s.writeRule i r) = scene s := rfl
@[simp] theorem scene_putPeer (s : State) (k : Fin 7) (q : Option Peer) : scene (s.putPeer k q) = scene s := rfl
@[simp] theorem scene_setPresence (s : State) (k : Fin 7) (q : Peer) (b : Bool) (c : PresenceCause) :
    scene (s.setPresence k q b c) = scene s := rfl
@[simp] theorem scene_discard (s : State) (d : Discard) : scene (s.discard d) = scene s := rfl
@[simp] theorem scene_setListen (s : State) (l : List Listen) : scene (s.setListen l) = scene s := rfl
@[simp] theorem scene_giveMinute (s : State) (k : MinuteKind) (c : Cause) (e : ClockEvent) :
    scene (s.giveMinute k c e) = scene s := rfl
@[simp] theorem scene_noticeTaken (s : State) (l : List Notice) : scene (s.noticeTaken l) = scene s := rfl
@[simp] theorem scene_setWork (s : State) (w : UpsWork) : scene (s.setWork w) = scene s := rfl
@[simp] theorem scene_setChunk (s : State) (k : Nat) (c : ChunkState) : scene (s.setChunk k c) = scene s := rfl
@[simp] theorem scene_setBuf (s : State) (b : Fin 4) (x : Option Buf) : scene (s.setBuf b x) = scene s := rfl
@[simp] theorem scene_setFetch (s : State) (f : Option Fetch) : scene (s.setFetch f) = scene s := rfl
@[simp] theorem scene_setBoot (s : State) (b : Boot) : scene (s.setBoot b) = scene s := rfl
@[simp] theorem scene_endWork (s : State) (id : Nat) (c : Status) (d : Byte) (l : List Byte) :
    scene (s.endWork id c d l) = scene s := rfl
@[simp] theorem scene_chunkFailed (s : State) (k c : Nat) : scene (s.chunkFailed k c) = scene s := rfl
@[simp] theorem scene_dropServesOf (s : State) (n : Node) : scene (s.dropServesOf n) = scene s := rfl

/-! ## The exchange (chapter 1) -/

@[simp] theorem scene_arbitrate (s : State) : scene s.arbitrate = scene s := by
  obtain ⟨c, b, w, h⟩ := s.arbitrate_spec
  rw [h]; rfl

@[simp] theorem scene_request (s : State) (l : List Access) : scene (s.request l) = scene s := scene_arbitrate _

@[simp] theorem scene_bulkRead (s : State) (o : Order) (offset len : Nat) :
    scene (s.bulkRead o offset len) = scene s := scene_request _ _

@[simp] theorem scene_bulkWrite (s : State) (o : Order) (offset : Nat) (data : List Byte) :
    scene (s.bulkWrite o offset data) = scene s := scene_request _ _

@[simp] theorem scene_busFree (s : State) : scene s.busFree = scene s := scene_arbitrate _

@[simp] theorem scene_causeLook (s : State) : scene s.causeLook = scene s := by
  obtain ⟨l, p, h⟩ := s.causeLook_spec
  rw [h]; rfl

@[simp] theorem scene_endLook (s : State) : scene s.endLook = scene s := by
  obtain ⟨l, p, h⟩ := s.endLook_spec
  rw [h]; rfl

@[simp] theorem scene_lookChain (s : State) : scene s.lookChain = scene s := by
  obtain ⟨l, p, c, b, w, h⟩ := s.lookChain_spec
  rw [h]; rfl

@[simp] theorem scene_drainEnd (s : State) : scene s.drainEnd = scene s := by
  obtain ⟨l, p, c, b, w, h⟩ := s.drainEnd_spec
  rw [h]; rfl

@[simp] theorem scene_placeFails (s : State) : scene s.placeFails = scene s := scene_drainEnd _

@[simp] theorem scene_reportReaches (s : State) (r : Report) : scene (s.reportReaches r) = scene s := by
  obtain ⟨l, p, e, m, h, -⟩ := s.reportReaches_spec r
  rw [h]; rfl

@[simp] theorem scene_areaFault (s : State) (c : FaultCause) : scene (s.areaFault c) = scene s := by
  unfold State.areaFault
  split <;> rfl

@[simp] theorem scene_headerRead (s : State) (ok : Bool) (h : List Byte) : scene (s.headerRead ok h) = scene s := by
  simp only [State.headerRead]
  repeat' split
  all_goals simp

@[simp] theorem scene_controlRun (s : State) (n : Bool) : scene (s.controlRun n) = scene s := by
  simp only [State.controlRun, State.takeRun, State.startBlocks, State.orphanAll]
  repeat' split
  all_goals simp

@[simp] theorem scene_leaveFlight (s : State) (id : Nat) : scene (s.leaveFlight id) = scene s := by
  simp only [State.leaveFlight]
  split <;> simp

@[simp] theorem scene_tableStart (s : State) (o : Order) (table start span capacity dest : Nat) :
    scene (s.tableStart o table start span capacity dest) = scene s := by
  simp [State.tableStart]

@[simp] theorem scene_tableGoesOn (s : State) (o : Order) (w : TableWork) : scene (s.tableGoesOn o w) = scene s := by
  simp only [State.tableGoesOn]
  split <;> simp

@[simp] theorem scene_lookPointerIn (s : State) (d : List Byte) : scene (s.lookPointerIn d) = scene s := by
  simp only [State.lookPointerIn]
  repeat' split
  all_goals simp

@[simp] theorem scene_lookHeadIn (s : State) (d : List Byte) : scene (s.lookHeadIn d) = scene s := by
  simp only [State.lookHeadIn]
  repeat' split
  all_goals simp

@[simp] theorem scene_lookRestIn (s : State) (d : List Byte) : scene (s.lookRestIn d) = scene s := by
  simp only [State.lookRestIn]
  repeat' split
  all_goals simp

@[simp] theorem scene_placePointerIn (s : State) (d : List Byte) : scene (s.placePointerIn d) = scene s := by
  simp only [State.placePointerIn]
  repeat' split
  all_goals simp

@[simp] theorem scene_placeStateIn (s : State) (d : List Byte) : scene (s.placeStateIn d) = scene s := by
  simp only [State.placeStateIn]
  repeat' split
  all_goals simp

@[simp] theorem scene_placeBodyWritten (s : State) : scene s.placeBodyWritten = scene s := by
  unfold State.placeBodyWritten
  split <;> rfl

@[simp] theorem scene_placed (s : State) : scene s.placed = scene s := by
  simp only [State.placed]
  repeat' split
  all_goals simp

@[simp] theorem scene_tick (s : State) : scene s.tick = scene s := by
  simp only [State.tick]
  repeat' split
  all_goals rfl

/-! ## Profiles, records and clock (chapters 5 to 7) -/

@[simp] theorem scene_membership (s : State) (p : Option ProfIx) : scene (s.membership p) = scene s := by
  cases p <;> rfl

@[simp] theorem scene_spentChange (s : State) (p : Option ProfIx) : scene (s.spentChange p) = scene s := by
  cases p <;> rfl

@[simp] theorem scene_profileChanged (s : State) (p q : Option ProfIx) : scene (s.profileChanged p q) = scene s := by
  unfold State.profileChanged
  split <;> simp

@[simp] theorem scene_recomputeSpent (s : State) (i : StaIx) : scene (s.recomputeSpent i) = scene s := by
  simp only [State.recomputeSpent]
  split
  · rfl
  · split <;> simp [scene_touchSta]

@[simp] theorem scene_recomputeAllSpent (s : State) : scene s.recomputeAllSpent = scene s :=
  scene_eachSta scene_recomputeSpent s

@[simp] theorem scene_addBonus (n : Nat) (s : State) (i : StaIx) : scene (State.addBonus n s i) = scene s := by
  simp only [State.addBonus]
  split <;> simp [scene_touchSta]

@[simp] theorem scene_grantStation (s : State) (o : Order) (i : StaIx) (n : Nat) :
    scene (s.grantStation o i n) = scene s := by
  simp only [State.grantStation]
  repeat' split
  all_goals simp

@[simp] theorem scene_grantProfile (s : State) (o : Order) (p : ProfIx) (n : Nat) :
    scene (s.grantProfile o p n) = scene s := by
  simp only [State.grantProfile]
  repeat' split
  all_goals simp [scene_eachSta]

@[simp] theorem scene_stampAll (s : State) (day : Word) : scene (s.stampAll day) = scene s := by
  refine congrArg (Prod.mk _) (states_map (fun r => ?_) _)
  split <;> rfl

@[simp] theorem scene_clockSet (s : State) (b : Bool) (old day : Word) : scene (s.clockSet b old day) = scene s := by
  simp only [State.clockSet]
  repeat' split
  all_goals simp

@[simp] theorem scene_rollOver (s : State) (l : List MinuteKind) (day : Word) (b : Bool) :
    scene (s.rollOver l day b) = scene s := by
  refine (scene_recomputeAllSpent _).trans (congrArg (Prod.mk _) (states_map (fun r => ?_) _))
  unfold Station.newDay
  split <;> rfl

@[simp] theorem scene_evaluate (s : State) (t : Trigger) : scene (s.evaluate t) = scene s := by
  obtain ⟨l, h, -⟩ := moves_spec t (s.profile t.profile) (s.condHolds t (s.profile t.profile))
    (s.profile t.profile).current Config.maxMoves (s.profile t.profile).current s
  simp only [State.evaluate]
  split <;> simp [h]

@[simp] theorem scene_reply (s : State) (p : ProfIx) (r : Option Reply) : scene (s.reply p r) = scene s := by
  cases r <;> rfl

@[simp] theorem scene_toInitial (s : State) (p : ProfIx) (x : Profile) (c : Cause) :
    scene (s.toInitial p x c) = scene s := by
  simp only [State.toInitial]
  split <;> rfl

@[simp] theorem scene_thenEvaluate (s : State) (o : Order) (p : ProfIx) (c : Cause) (b a : List Byte) :
    scene (s.thenEvaluate o p c b a) = scene s := by
  unfold State.thenEvaluate
  split <;> rfl

@[simp] theorem scene_setPause (s : State) (o : Order) (p : ProfIx) (f : Bool) (c : Cause) :
    scene (s.setPause o p f c) = scene s := by
  simp only [State.setPause]
  split <;> simp

/-! ## Frames, queues and flows (chapters 2 to 4) -/

@[simp] theorem scene_learn (s : State) (m : Mac) (p : PortId) : scene (s.learn m p) = scene s := by
  unfold State.learn
  split <;> rfl

@[simp] theorem scene_purgeStation (s : State) (i : StaIx) : scene (s.purgeStation i) = scene s := by
  obtain ⟨v, n, h⟩ := s.purgeStation_spec i
  rw [h]; rfl

@[simp] theorem scene_reportEnqueue (s : State) (n : Nat) (c : TClass) (source station : Option StaIx)
    (p : Option PortId) (l : Bool) : scene (s.reportEnqueue n c source station p l) = scene s := by
  simp only [State.reportEnqueue]
  repeat' split
  all_goals simp

@[simp] theorem scene_join (s : State) (p : PortId) (f : Offered) : scene (s.join p f) = scene s :=
  scene_reportEnqueue _ _ _ _ _ _ _

@[simp] theorem scene_enqueueNew (s : State) (p : PortId) (f : Offered) : scene (s.enqueueNew p f).1 = scene s := by
  rcases s.enqueueNew_cases p f with h | h | ⟨-, -, h⟩ <;> simp [h]

@[simp] theorem scene_enqueueHeld (s : State) (p : PortId) (f : Offered) : scene (s.enqueueHeld p f).1 = scene s := by
  unfold State.enqueueHeld
  split <;> simp

@[simp] theorem scene_releaseHeld (p : PortId) (i : Option StaIx) (n : Option Node) (l : List Held) (s : State) :
    scene (State.releaseHeld p i n l s).1 = scene s := by
  induction l generalizing s with
  | nil => rfl
  | cons x l ih => exact (ih _).trans (scene_enqueueHeld _ _ _)

@[simp] theorem scene_holdFrame (s : State) (i : StaIx) (x : Held) : scene (s.holdFrame i x) = scene s := by
  simp only [State.holdFrame]
  split
  · rfl
  · split
    · rfl
    · exact scene_touchSta (s := s.takeBuffer) rfl

@[simp] theorem scene_examineFor (s : State) (q : Search) (r : Rule) : scene (s.examineFor q r) = scene s := by
  unfold State.examineFor
  repeat' split
  all_goals simp

@[simp] theorem scene_ruleHit (s : State) (q : Search) (i : Fin 64) (r : Rule) :
    scene (s.ruleHit q i r) = scene s := by
  simp only [State.ruleHit]
  repeat' split
  all_goals simp

@[simp] theorem scene_searchFrom (q : Search) (l : List (Fin 64)) (s : State) :
    scene (State.searchFrom q l s).1 = scene s := by
  induction l generalizing s with
  | nil => rfl
  | cons i l ih =>
    simp only [State.searchFrom]
    repeat' split
    all_goals simp [ih]

@[simp] theorem scene_runMatchList (s : State) (p : PortId) (x : Ingress) (ip : IpInfo) (b : Bool) :
    scene (s.runMatchList p x ip b) = scene s := by
  simp only [State.runMatchList, State.search, State.classed]
  repeat' split
  all_goals simp [apply_ite scene]

@[simp] theorem scene_acceptFrame (s : State) (p : PortId) (f : List Byte) (n : Int) :
    scene (s.acceptFrame p f n) = scene s := by
  simp only [State.acceptFrame]
  repeat' split
  all_goals simp

/-! ## Messages and peers (chapter 8) -/

@[simp] theorem scene_send (s : State) (n : Node) (k : Nat) (b : List Byte) : scene (s.send n k b).1 = scene s := by
  unfold State.send
  repeat' split
  all_goals simp [State.sendFrame]

@[simp] theorem scene_sendTo (s : State) (n : Node) (k : Nat) (b : List Byte) : scene (s.sendTo n k b) = scene s :=
  scene_send s n k b

@[simp] theorem scene_sendBeacon (s : State) (b : List Byte) : scene (s.sendBeacon b) = scene s := by
  unfold State.sendBeacon
  split <;> simp [State.sendFrame]

@[simp] theorem scene_meshOff (s : State) : scene s.meshOff = scene s := by
  refine scene_foldl (fun t k => ?_) _ s
  repeat' split
  all_goals rfl

@[simp] theorem scene_writeNode (s : State) (n : Node) (m : Mac) (t : Nat) (e : Bool) :
    scene (s.writeNode n m t e) = scene s := by
  simp only [State.writeNode]
  split <;> simp

@[simp] theorem scene_deliver (s : State) (m : Msg) : scene (s.deliver m) = scene s := by
  unfold State.deliver
  repeat' split
  all_goals rfl

@[simp] theorem scene_validMessage (s : State) (k : Fin 7) (q : Peer) (f : List Byte) :
    scene (s.validMessage k q f) = scene s := by
  simp only [State.validMessage]
  split <;> simp

@[simp] theorem scene_meshFrame (s : State) (f : List Byte) : scene (s.meshFrame f) = scene s := by
  simp only [State.meshFrame]
  repeat' split
  all_goals simp

@[simp] theorem scene_endForced (s : State) (i : StaIx) (c : Status) (d : Byte) :
    scene (s.endForced i c d) = scene s := by
  unfold State.endForced
  repeat' split
  all_goals rfl

/-! ## The flash and the stager (chapter 10) -/

@[simp] theorem scene_startFlash (s : State) : scene s.startFlash = scene s := by
  obtain ⟨o, w, h⟩ := s.startFlash_spec
  rw [h]; rfl

@[simp] theorem scene_flashRequest (s : State) (o : FlashOp) : scene (s.flashRequest o) = scene s :=
  scene_startFlash _

@[simp] theorem scene_opEnds (s : State) : scene s.opEnds = scene s := scene_startFlash _

@[simp] theorem scene_eraseSlotRecord (s : State) (w : FlashOwner) : scene (s.eraseSlotRecord w) = scene s :=
  scene_flashRequest _ _

@[simp] theorem scene_programSlotRecord (s : State) (r : SlotRecord) (w : FlashOwner) :
    scene (s.programSlotRecord r w) = scene s := scene_flashRequest _ _

@[simp] theorem scene_sendWant (s : State) (n : Node) : scene (s.sendWant n) = scene s := by
  simp only [State.sendWant]
  split <;> simp

@[simp] theorem scene_selectSource (s : State) (f : Fetch) : scene (s.selectSource f) = scene s := by
  unfold State.selectSource
  split <;> simp

@[simp] theorem scene_sourceGone (s : State) (n : Node) : scene (s.sourceGone n) = scene s := by
  unfold State.sourceGone
  repeat' split
  all_goals simp

@[simp] theorem scene_fetchGoesOn (s : State) : scene s.fetchGoesOn = scene s := by
  unfold State.fetchGoesOn
  repeat' split
  all_goals simp

@[simp] theorem scene_stageInto (s : State) (b : Fin 4) (id chunk offset : Nat) :
    scene (s.stageInto b id chunk offset) = scene s := by
  obtain ⟨v, w, c, x, l, h⟩ := s.stageInto_spec b id chunk offset
  rw [h]; rfl

@[simp] theorem scene_freeBuf (s : State) (b : Fin 4) : scene (s.freeBuf b) = scene s := by
  obtain ⟨v, w, c, x, l, h⟩ := s.freeBuf_spec b
  rw [h]; rfl

@[simp] theorem scene_stageEnds (s : State) (o : Option Nat) (c : Status) (l : List Byte) :
    scene (s.stageEnds o c l) = scene s := by
  cases o <;> rfl

@[simp] theorem scene_writeChunk (s : State) (b : Fin 4) (x : Buf) : scene (s.writeChunk b x) = scene s := by
  simp only [State.writeChunk]
  repeat' split
  all_goals simp

@[simp] theorem scene_chunkLost (s : State) (b : Fin 4) (x : Buf) (cause : Nat) :
    scene (s.chunkLost b x cause) = scene s := by
  simp [State.chunkLost]

@[simp] theorem scene_dropServes (s : State) : scene s.dropServes = scene s := by
  simp only [State.dropServes]
  repeat' split
  all_goals rfl

@[simp] theorem scene_sendFragments (e : Serve) (d : List Byte) (l : List Nat) (s : State) :
    scene (State.sendFragments e d l s).1 = scene s := by
  induction l generalizing s with
  | nil => rfl
  | cons f l ih =>
    simp only [State.sendFragments]
    split
    · rw [ih, scene_send]
    · exact scene_send _ _ _ _

@[simp] theorem scene_serveEnds (s : State) (clean : Bool) : scene (s.serveEnds clean) = scene s := by
  simp only [State.serveEnds]
  repeat' split
  all_goals rfl

@[simp] theorem scene_serveIn (s : State) (d : List Byte) : scene (s.serveIn d) = scene s := by
  unfold State.serveIn
  split <;> simp

@[simp] theorem scene_sendNone (s : State) (n : Node) (id : Word) (busy : Bool) (l : List Nat) :
    scene (s.sendNone n id busy l) = scene s := by
  unfold State.sendNone
  split <;> simp

@[simp] theorem scene_manifestHeadIn (s : State) (o : Order) (b : List Byte) :
    scene (s.manifestHeadIn o b) = scene s := by
  simp only [State.manifestHeadIn]
  repeat' split
  all_goals simp

@[simp] theorem scene_manifestIn (s : State) (id : Nat) (b : List Byte) : scene (s.manifestIn id b) = scene s := by
  simp only [State.manifestIn]
  repeat' split
  all_goals simp

@[simp] theorem scene_programManifest (s : State) (id : Nat) (b : List Byte) (k : Nat) :
    scene (s.programManifest id b k) = scene s := by
  simp [State.programManifest]

@[simp] theorem scene_rescanChunk (s : State) (m : Manifest) (id k : Nat) : scene (s.rescanChunk m id k) = scene s := by
  simp [State.rescanChunk]

@[simp] theorem scene_fillFragment (s : State) (b : Fin 4) (k : Nat) (l : List (Option (List Byte))) (at_ : Ms)
    (f : Nat) (d : List Byte) : scene (s.fillFragment b k l at_ f d) = scene s := by
  simp only [State.fillFragment]
  repeat' split
  all_goals simp

@[simp] theorem scene_takeFragment (s : State) (k n f : Nat) (d : List Byte) :
    scene (s.takeFragment k n f d) = scene s := by
  unfold State.takeFragment
  repeat' split
  all_goals simp

@[simp] theorem scene_stageIn (s : State) (id : Nat) (d : List Byte) : scene (s.stageIn id d) = scene s := by
  simp only [State.stageIn]
  repeat' split
  all_goals simp

@[simp] theorem scene_workBulkDone (s : State) (o : Order) (d : List Byte) : scene (s.workBulkDone o d) = scene s := by
  unfold State.workBulkDone
  repeat' split
  all_goals simp

@[simp] theorem scene_bootManifest (s : State) (r : SlotRecord) (k : Option (ReportKind × Bool)) (b : List Byte) :
    scene (s.bootManifest r k b) = scene s := by
  simp [State.bootManifest]

@[simp] theorem scene_recordIn (s : State) (d : List Byte) : scene (s.recordIn d) = scene s := by
  simp only [State.recordIn]
  repeat' split
  all_goals simp

@[simp] theorem scene_checkEnds (s : State) (r : SlotRecord) (k : Option (ReportKind × Bool)) (b : List Byte) :
    scene (s.checkEnds r k b) = scene s := by
  simp only [State.checkEnds]
  split <;> rfl

@[simp] theorem scene_bootFlashDone (s : State) (ok : Bool) (d : List Byte) :
    scene (s.bootFlashDone ok d) = scene s := by
  unfold State.bootFlashDone
  repeat' split
  all_goals simp

@[simp] theorem scene_readPiece (s : State) (w : ReadWork) : scene (s.readPiece w) = scene s := by
  simp [State.readPiece]

@[simp] theorem scene_readFlashIn (s : State) (d : List Byte) : scene (s.readFlashIn d) = scene s := by
  unfold State.readFlashIn
  repeat' split
  all_goals simp

@[simp] theorem scene_readFlashWritten (s : State) (o : Order) : scene (s.readFlashWritten o) = scene s := by
  unfold State.readFlashWritten
  repeat' split
  all_goals simp

@[simp] theorem scene_writeSlot (s : State) (o : Order) (r : SlotRecord) (c : Bool) :
    scene (s.writeSlot o r c) = scene s := by
  simp [State.writeSlot]

/-! ## The end of an access (chapter 1) -/

@[simp] theorem scene_bulkDone (s : State) (id : Nat) (d : List Byte) : scene (s.bulkDone id d) = scene s := by
  unfold State.bulkDone
  repeat' split
  all_goals simp

@[simp] theorem scene_bulkFails (s : State) (id : Nat) : scene (s.bulkFails id) = scene s := by
  simp only [State.bulkFails]
  repeat' split
  all_goals simp

@[simp] theorem scene_accessFails (s : State) (a : Access) : scene (s.accessFails a) = scene s := by
  unfold State.accessFails
  split <;> simp

end Sys2Proof.Machine.RoomHandoff
end

section
/-!
PROOFS. What an operation leaves of the rule of the install hold, said as a relation of two scenes; and the operations
that move a record or the stager to another state (R94, R141 to R149, R157 to R165).
-/

namespace Sys2Proof.Machine.RoomHandoff

open Sys2Proof Sys2Proof.Machine Sys2Proof.Machine.FlowClassification Sys2Proof.Machine.AirtimeScheduling

/-! ## The relation -/

/-- A record's state that an install hold permits (R151, R164). -/
def Calm (g : StaState) : Prop := g = .free ∨ g = .active ∨ g = .left

theorem calm_free : Calm .free := .inl rfl
theorem calm_active : Calm .active := .inr (.inl rfl)
theorem calm_left : Calm .left := .inr (.inr rfl)

theorem not_calm_watched : ¬Calm .watched := by simp [Calm]
theorem not_calm_offering : ¬Calm .offering := by simp [Calm]
theorem not_calm_moving : ¬Calm .moving := by simp [Calm]

theorem holdInv_iff (s : State) : HoldInv s ↔ ((scene s).1 = .hold → ∀ i, Calm ((scene s).2.get i)) := by
  simp only [HoldInv, Calm, scene_fst, scene_snd]

/-- When a hold is in force in the second scene, it was so in the first, and every record that it permitted there it
permits still. -/
structure Undisturbed (a b : Staging × Vector StaState 128) : Prop where
  hold : b.1 = .hold → a.1 = .hold
  calm : b.1 = .hold → ∀ i, Calm (a.2.get i) → Calm (b.2.get i)

theorem Undisturbed.holdInv {s t : State} (h : Undisturbed (scene s) (scene t)) (hs : HoldInv s) : HoldInv t :=
  (holdInv_iff t).2 fun ht i => h.calm ht i ((holdInv_iff s).1 hs (h.hold ht) i)

@[simp] theorem Undisturbed.refl (a : Staging × Vector StaState 128) : Undisturbed a a := ⟨id, fun _ _ => id⟩

theorem Undisturbed.trans {a b c : Staging × Vector StaState 128} (h : Undisturbed a b) (g : Undisturbed b c) :
    Undisturbed a c :=
  ⟨h.hold ∘ g.hold, fun hc i => g.calm hc i ∘ h.calm (g.hold hc) i⟩

/-- Where no hold is in force afterwards, nothing is asked. -/
theorem undisturbed_of_ne {a : Staging × Vector StaState 128} {p : Staging} (v : Vector StaState 128)
    (h : p ≠ .hold) : Undisturbed a (p, v) :=
  ⟨fun hp => absurd hp h, fun hp => absurd hp h⟩

/-- `Quiet s t`: from `s` to `t` the rule of the install hold is left undisturbed. -/
abbrev Quiet (s t : State) : Prop := Undisturbed (scene s) (scene t)

section Operations
variable {s t : State}

theorem Quiet.ite {u : State} {c : Prop} [Decidable c] (ht : Quiet s t) (hu : Quiet s u) :
    Quiet s (if c then t else u) := by
  split
  · exact ht
  · exact hu

/-- A fold of an operation is quiet when the operation is. -/
theorem Quiet.foldl {α : Type} {f : State → α → State} (h : Quiet s t) (l : List α)
    (hf : ∀ u a, Quiet s u → Quiet s (f u a)) : Quiet s (l.foldl f t) := by
  induction l generalizing t with
  | nil => exact h
  | cons a l ih => exact ih (hf t a h)

/-! ## Writes of a record -/

/-- The state of a record may change where no hold is in force, where the hold barred it, or to one it permits. -/
theorem Quiet.setSta {i : StaIx} {r : Station} (h : Quiet s t)
    (hr : t.ups.state = .hold → Calm (t.sta i).state → Calm r.state) : Quiet s (t.setSta i r) := by
  refine Undisturbed.trans h ?_
  rw [scene_setSta]
  refine ⟨id, fun ht j hj => ?_⟩
  change Calm ((put (scene t).2 i r.state).get j)
  rw [get_put]
  split
  · next e => exact hr ht (by rw [← scene_snd, ← e]; exact hj)
  · exact hj

theorem Quiet.setCalm {i : StaIx} {r : Station} (h : Quiet s t) (hr : Calm r.state) : Quiet s (t.setSta i r) :=
  h.setSta fun _ _ => hr

/-- A write that leaves the state of its record. -/
theorem Quiet.touchSta {i : StaIx} {r : Station} (h : Quiet s t) (hr : r.state = (t.sta i).state) :
    Quiet s (t.setSta i r) := by
  rw [Quiet, scene_touchSta hr]
  exact h

/-- A record the hold bars may change its state at will: no hold is in force with it. -/
theorem Quiet.setBarred {i : StaIx} {r : Station} (h : Quiet s t) (hi : ¬Calm (t.sta i).state) :
    Quiet s (t.setSta i r) :=
  h.setSta fun _ hc => absurd hc hi

theorem Quiet.freeStation (h : Quiet s t) (i : StaIx) : Quiet s (t.freeStation i) := by
  have hleave : ∀ u r, scene (State.leaveProfile u r) = scene u := fun u r => by
    unfold State.leaveProfile
    split <;> simp
  refine Quiet.setCalm (r := Station.free) ?_ calm_free
  simpa [Quiet, hleave] using h

theorem Quiet.enter {i : StaIx} {r : Station} (h : Quiet s t) (hr : t.ups.state = .hold → Calm r.state) :
    Quiet s (t.enter i r) := Quiet.setSta (t := t.dropAddresses _) h fun ht _ => hr ht

theorem Quiet.enrol {i : StaIx} {r : Station} (h : Quiet s t) (hr : Calm r.state) : Quiet s (t.enrol i r) := by
  simpa [Quiet, State.enrol] using h.enter (i := i) fun _ => hr

theorem Quiet.bind (h : Quiet s t) (i : StaIx) (radio : Radio) (p : Option ProfIx) (rate : Nat) :
    Quiet s (t.bind i radio p rate) := by
  have hset : Quiet s (t.setSta i ((t.sta i).bound radio p rate t.now)) := h.setCalm calm_active
  simp only [State.bind]
  split <;> simpa [Quiet] using hset

theorem Quiet.admission (h : Quiet s t) (o : Order) (m : Mac) (radio : Radio) (p : Option ProfIx) (rate used : Nat) :
    Quiet s (t.admission o m radio p rate used) := by
  have hadmit : ∀ i, Quiet s (t.enrol i (t.newStation m radio p rate used)) := fun i => h.enrol calm_active
  simp only [State.admission]
  split
  · split
    · exact h.bind _ radio p rate
    all_goals exact h
  · split
    · exact h
    · exact Quiet.ite (hadmit _) h

/-! ## Offers and queries (R136 to R143) -/

/-- An offer begins outside a hold, or for a record no hold permits. -/
theorem Quiet.beginOffer {i : StaIx} (h : Quiet s t) (hi : t.ups.state = .hold → ¬Calm (t.sta i).state) (n : Node) :
    Quiet s (t.beginOffer i n) := by
  rw [Quiet, State.beginOffer, scene_sendTo]
  exact Quiet.setSta (t := t.newHandoffId.1) h fun ht hc => absurd hc (hi ht)

theorem Quiet.closeQuery {i : StaIx} (h : Quiet s t) (hi : t.ups.state = .hold → ¬Calm (t.sta i).state) :
    Quiet s (t.closeQuery i) := by
  simp only [State.closeQuery]
  split
  · exact h
  · split
    · exact h.beginOffer hi _
    · exact h.setCalm calm_active

/-- A query starts outside a hold. -/
theorem Quiet.startQuery (h : Quiet s t) (ht : t.ups.state ≠ .hold) (i : StaIx) : Quiet s (t.startQuery i) := by
  have hwatch : ∀ q, Quiet s (t.setSta i { t.sta i with state := .watched, runOn := 0, query := q }) := fun q =>
    h.setSta fun hh => absurd hh ht
  simp only [State.startQuery]
  split
  · exact (hwatch _).closeQuery fun hh => absurd hh ht
  · exact (hwatch _).foldl _ fun u n hu => by simpa [Quiet] using hu

theorem Quiet.checkStation (h : Quiet s t) (i : StaIx) : Quiet s (t.checkStation i) := by
  simp only [State.checkStation]
  split
  · next avg _ _ _ =>
    have hset : Quiet s (t.setSta i ((t.sta i).checked t.hoc.roaming avg)) := h.touchSta rfl
    split
    · next hq =>
      obtain ⟨-, -, hhold, -⟩ := (queryStarts_iff _ _).1 hq
      exact hset.startQuery hhold i
    · exact hset
  · exact h

theorem Quiet.reportTaken {i : StaIx} (h : Quiet s t) (hi : (t.sta i).state = .watched) (q : Query) (m : Msg) :
    Quiet s (t.reportTaken i q m) := by
  have hfill : ∀ x, Quiet s (t.setSta i { t.sta i with query := x }) := fun x => h.touchSta rfl
  simp only [State.reportTaken]
  split
  · refine Quiet.ite ((hfill _).closeQuery fun _ => ?_) (hfill _)
    simp [hi, not_calm_watched]
  · exact h

theorem Quiet.offerFails (h : Quiet s t) (i : StaIx) (g : Handoff) (reason : Byte) (late : Bool) :
    Quiet s (t.offerFails i g reason late) := by
  have hend : Quiet s (if (t.sta i).departed = true then t.freeStation i
      else t.setSta i { (t.sta i).backOff t.now with state := .active, handoff := none, runOn := 0 }) :=
    Quiet.ite (h.freeStation i) (h.setCalm calm_active)
  simp only [State.offerFails]
  split <;> simpa [Quiet] using hend

theorem Quiet.offersFail (h : Quiet s t) (n : Node) : Quiet s (t.offersFail n) := by
  refine h.foldl _ fun u i hu => ?_
  split
  · exact Quiet.ite (hu.offerFails i _ _ _) hu
  · exact hu

/-- A reservation is made outside a hold. -/
theorem Quiet.reserve (h : Quiet s t) (ht : t.ups.state ≠ .hold) (i : StaIx) (origin : Node) (b : List Byte) :
    Quiet s (t.reserve i origin b) := by
  have henter : Quiet s (t.enter i (t.reservation origin b)) := h.enter fun hh => absurd hh ht
  simpa [Quiet, State.reserve, scene_foldl fun u j => scene_placeFlow u _] using henter

/-! ## Moves (R143 to R149) -/

theorem Quiet.beginMove {i : StaIx} (h : Quiet s t) (hi : (t.sta i).state = .offering) (g : Handoff) :
    Quiet s (t.beginMove i g) := by
  rw [Quiet, State.beginMove, scene_endForced, scene_giveReport]
  exact h.setBarred (by rw [hi]; exact not_calm_offering)

theorem Quiet.completeMove (h : Quiet s t) (i : StaIx) (g : Handoff) : Quiet s (t.completeMove i g) := by
  have hleft : ∀ f, Quiet s (t.setSta i { t.sta i with
      state := .left, handoff := none, query := none, held := none, forward := f }) := fun f => h.setCalm calm_left
  simpa [Quiet, State.completeMove] using hleft _

theorem Quiet.returnStation (h : Quiet s t) (i : StaIx) (g : Handoff) (reason : Byte) :
    Quiet s (t.returnStation i g reason) := by
  have hback : Quiet s (t.setSta i { (t.sta i).backOff t.now with
      state := .active, handoff := none, held := none, runOn := 0 }) := h.setCalm calm_active
  simp only [State.returnStation]
  split
  · exact h.freeStation i
  · simpa [Quiet] using hback

theorem Quiet.offerRetry (h : Quiet s t) (i : StaIx) (g : Handoff) : Quiet s (t.offerRetry i g) := by
  have hset : ∀ x, Quiet s (t.setSta i { t.sta i with handoff := x }) := fun x => h.touchSta rfl
  unfold State.offerRetry
  split
  · simpa [Quiet] using hset _
  · exact h.offerFails i g _ _

theorem Quiet.withdrawRetry (h : Quiet s t) (i : StaIx) (g : Handoff) : Quiet s (t.withdrawRetry i g) := by
  have hset : ∀ x, Quiet s (t.setSta i { t.sta i with handoff := x }) := fun x => h.touchSta rfl
  unfold State.withdrawRetry
  split
  · simpa [Quiet] using hset _
  · exact h.returnStation i g _

theorem Quiet.confirmRetry (h : Quiet s t) (i : StaIx) (g : Handoff) : Quiet s (t.confirmRetry i g) := by
  have hset : ∀ x, Quiet s (t.setSta i { t.sta i with handoff := x }) := fun x => h.touchSta rfl
  unfold State.confirmRetry
  split
  · simpa [Quiet] using hset _
  · exact hset _

theorem Quiet.settleRetry (h : Quiet s t) (i : StaIx) (f : Forward) (w : SettleWait) :
    Quiet s (t.settleRetry i f w) := by
  have hset : ∀ x, Quiet s (t.setSta i { t.sta i with forward := x }) := fun x => h.touchSta rfl
  unfold State.settleRetry
  split <;> simpa [Quiet] using hset _

theorem Quiet.settleTaken (h : Quiet s t) (i : StaIx) (g : Handoff) (u : Nat) (day : Option Word) :
    Quiet s (t.settleTaken i g u day) := by
  have hset : ∀ x n, Quiet s (t.setSta i { t.sta i with used := n, handoff := x }) := fun x n => h.touchSta rfl
  simp only [State.settleTaken]
  split
  · simpa [Quiet] using hset _ _
  · exact hset _ _

/-! ## The end of a hold and of a staging (R157, R158, R160, R161, R165) -/

/-- The stager has left the hold, or was in none. -/
theorem quiet_of_ne (h : t.ups.state ≠ .hold) : Quiet s t := undisturbed_of_ne _ h

theorem quiet_complete (s t : State) : Quiet s t.complete :=
  quiet_of_ne (t := t.complete) (by simp [State.complete])

theorem quiet_endHold (s t : State) (c : HoldCause) : Quiet s (t.endHold c) := by
  refine quiet_of_ne ?_
  cases c <;> simp [State.endHold]

theorem quiet_beginFails (s t : State) (id : Nat) : Quiet s (t.beginFails id) :=
  quiet_of_ne (by simp [State.beginFails, State.endWork])

theorem quiet_beginDone (s t : State) (id : Nat) (b : List Byte) : Quiet s (t.beginDone id b) := by
  unfold State.beginDone
  split
  · exact quiet_of_ne (by simp [State.endWork])
  · exact quiet_beginFails s t id

theorem quiet_rescanEnds (s t : State) (id : Nat) : Quiet s (t.rescanEnds id) := by
  simp only [State.rescanEnds]
  split
  · exact quiet_complete s t
  · exact quiet_of_ne (by simp [State.endWork])

theorem Quiet.resumeIn (h : Quiet s t) (id : Nat) (b : List Byte) : Quiet s (t.resumeIn id b) := by
  simp only [State.resumeIn]
  split
  · simpa [Quiet] using h
  · split
    · exact h
    · refine Quiet.ite h ?_
      simpa [Quiet] using undisturbed_of_ne _ (by decide)

theorem Quiet.rescanIn (h : Quiet s t) (id k : Nat) (d : List Byte) : Quiet s (t.rescanIn id k d) := by
  simp only [State.rescanIn]
  split
  · exact h
  · split
    · simpa [Quiet, apply_ite scene] using h
    · exact quiet_rescanEnds s _ id

theorem Quiet.chunkWritten (h : Quiet s t) (b : Fin 4) (x : Buf) : Quiet s (t.chunkWritten b x) := by
  simp only [State.chunkWritten]
  split
  · exact quiet_complete s _
  · simpa [Quiet] using h

theorem Quiet.bufFlashDone (h : Quiet s t) (b : Fin 4) (ok : Bool) (d : List Byte) :
    Quiet s (t.bufFlashDone b ok d) := by
  have hlost : ∀ x c, Quiet s (t.chunkLost b x c) := fun x c => by simpa [Quiet] using h
  simp only [State.bufFlashDone]
  split
  · exact h
  · refine Quiet.ite (hlost _ _) ?_
    split
    · simpa [Quiet] using h
    · split <;> simpa [Quiet] using h
    · split
      · exact Quiet.ite (h.chunkWritten b _) (hlost _ _)
      · simpa [Quiet] using h
    · exact h
    · exact h

theorem Quiet.slotWritten (h : Quiet s t) (id : Nat) (r : SlotRecord) (c : Bool) : Quiet s (t.slotWritten id r c) := by
  simp only [State.slotWritten]
  split
  · exact quiet_endHold s _ _
  · exact h

theorem Quiet.slotFails (h : Quiet s t) (id : Nat) (c : Bool) : Quiet s (t.slotFails id c) := by
  simp only [State.slotFails]
  exact Quiet.ite (quiet_endHold s _ _) h

theorem Quiet.workFlashDone (h : Quiet s t) (ok : Bool) (d : List Byte) : Quiet s (t.workFlashDone ok d) := by
  unfold State.workFlashDone
  split
  · exact Quiet.ite (quiet_beginFails s t _) (Quiet.ite (by simpa [Quiet] using h) (by simpa [Quiet] using h))
  · exact Quiet.ite (quiet_beginFails s t _) (Quiet.ite (by simpa [Quiet] using h) (quiet_beginDone s t _ _))
  · exact h.resumeIn _ _
  · exact h.rescanIn _ _ _
  · exact Quiet.ite (by simpa [Quiet] using h) (h.slotFails _ _)
  · exact Quiet.ite (h.slotWritten _ _ _) (h.slotFails _ _)
  all_goals exact h

theorem Quiet.flashDone (h : Quiet s t) (w : FlashOwner) (ok : Bool) (d : List Byte) :
    Quiet s (t.flashDone w ok d) := by
  cases w with
  | work => exact h.workFlashDone ok d
  | buf b => exact h.bufFlashDone b ok d
  | _ => simpa [Quiet, State.flashDone] using h

theorem Quiet.cancelJoins (h : Quiet s t) (id : Nat) : Quiet s (t.cancelJoins id) := by
  unfold State.cancelJoins
  split
  · exact h
  · exact h
  all_goals simpa [Quiet] using undisturbed_of_ne _ (by decide)

theorem Quiet.takenWritten (h : Quiet s t) : Quiet s t.takenWritten := by
  unfold State.takenWritten
  split
  · simp only [State.takeDone]
    refine Quiet.ite (Quiet.cancelJoins ?_ _) ?_ <;> simpa [Quiet] using h
  · exact h

theorem Quiet.accessDone (h : Quiet s t) (w : BusOwner) (d : List Byte) : Quiet s (t.accessDone w d) := by
  cases w with
  | taken => exact h.takenWritten
  | _ => simpa [Quiet, State.accessDone] using h

end Operations

end Sys2Proof.Machine.RoomHandoff
end

section
/-!
PROOFS. Every command leaves the rule of the install hold undisturbed, and so does every step: O7.
-/

namespace Sys2Proof.Machine.RoomHandoff

open Sys2Proof Sys2Proof.Machine Sys2Proof.Machine.FlowClassification Sys2Proof.Machine.AirtimeScheduling
  Sys2Proof.Machine.ProfilePrograms Sys2Proof.Machine.MeshControlLink

/-- A result is quiet when the next state it answers is. -/
def QuietNext (s : State) (r : Result) : Prop := ∀ t, r = .next t → Quiet s t

theorem quietNext {s t : State} (h : Quiet s t) : QuietNext s (.next t) := by
  rintro u ⟨⟩
  exact h

theorem quiet_of_scene {s t : State} (h : scene t = scene s) : Quiet s t := by
  rw [Quiet, h]
  exact .refl _

/-- A command that leaves the scene. -/
theorem quietNext_of_scene {s t : State} (h : scene t = scene s) : QuietNext s (.next t) := quietNext (quiet_of_scene h)

/-! ## The ways a command works its order, frame or message -/

theorem quietNext_workOrder {b : BlockId} {k : Byte} {f : Order → State → State} {s : State}
    (h : ∀ o, Quiet s (f o s)) : QuietNext s (workOrder b k f s) := by
  cases hh : s.freshHead b k with
  | none => rw [workOrder_of_none f hh]; exact quietNext (.refl _)
  | some o => rw [workOrder_of_some f hh]; exact quietNext (h o)

theorem quietNext_workProfile {k : Byte} {f : Order → ProfIx → State → State} {s : State}
    (h : ∀ o p, scene (f o p s) = scene s) : QuietNext s (workProfile k f s) := by
  refine quietNext_workOrder fun o => quiet_of_scene ?_
  split
  · exact h o _
  · exact scene_refuse _ _ _

theorem quietNext_workStager {k : Byte} {f : Order → State → State} {s : State} (h : ∀ o, Quiet s (f o s)) :
    QuietNext s (workStager k f s) := by
  refine quietNext (Quiet.ite ?_ (.refl _))
  split
  · exact h _
  · exact .refl _

theorem quietNext_workStaging {k : Byte} {f : Order → State → State} {s : State}
    (h : ∀ o, scene (f o s) = scene s) : QuietNext s (workStaging k f s) := by
  refine quietNext (Quiet.ite ?_ (.refl _))
  split
  · refine Quiet.ite ?_ (.refl _)
    split
    · exact quiet_of_scene (h _)
    all_goals exact .refl _
  · exact .refl _

/-- A message is worked in a state of the same scene. -/
theorem quietNext_workMessage {kind : Nat} {f : Msg → State → State} {s : State}
    (h : ∀ m t, Quiet s t → Quiet s (f m t)) : QuietNext s (workMessage kind f s) := by
  refine quietNext ?_
  split
  · exact .refl _
  · next m rest _ => exact Quiet.ite (h m _ (quiet_of_scene rfl)) (.refl _)

theorem quietNext_workChunkMessage {kind : Nat} {f : Msg → State → State} {s : State}
    (h : ∀ m t, scene (f m t) = scene t) : QuietNext s (workChunkMessage kind f s) := by
  refine quietNext ?_
  split
  · exact .refl _
  · next m rest _ => exact Quiet.ite (quiet_of_scene (h m _)) (.refl _)

theorem quietNext_workStage {p : PortId} {g : Stage} {f : Ingress → State → State} {s : State}
    (h : ∀ x, scene (f x s) = scene s) : QuietNext s (workStage p g f s) := by
  refine quietNext ?_
  split
  · exact Quiet.ite (quiet_of_scene (h _)) (.refl _)
  · exact .refl _

/-! ## The exchange (chapter 1) -/

/-- Power-on and reset leave the stager IDLE. -/
theorem quiet_controlReset (s : State) : Quiet s s.controlReset :=
  Quiet.ite (.refl _) (quiet_of_ne (t := s.engineReset) (by simp [State.engineReset, State.reset, Ups.reset]))

theorem quietNext_powerOn (s : State) : QuietNext s (execPowerOn s) :=
  quietNext (quiet_of_ne (t := { State.reset with pending := s.pending }) (by simp [State.reset, Ups.reset]))

theorem quiet_writeControl (s : State) (v : Word) : Quiet s (s.writeControl v) :=
  Quiet.ite (quiet_controlReset s) <| Quiet.ite (quiet_of_scene (scene_controlRun _ _)) <|
    Quiet.ite (quiet_of_scene (scene_causeLook s)) (.refl _)

theorem quiet_writeRegister (s : State) (k : Nat) (v : Word) : Quiet s (s.writeRegister k v) := by
  unfold State.writeRegister
  split
  · exact .refl _
  · exact .refl _
  · exact .refl _
  · exact quiet_writeControl s v
  all_goals exact .refl _

theorem quietNext_registerWrite (offset : BitVec 5) (w : Width) (v : Word) (s : State) :
    QuietNext s (execRegisterWrite offset w v s) := by
  refine quietNext ?_
  split
  · exact Quiet.ite (quiet_writeRegister s _ v) (.refl _)
  all_goals exact .refl _

theorem quietNext_resetDone (s : State) : QuietNext s (execResetDone s) := by
  refine quietNext_of_scene ?_
  split <;> rfl

theorem quietNext_scanTimerExpiry (s : State) : QuietNext s (execScanTimerExpiry s) := by
  refine quietNext_of_scene ?_
  repeat' split
  all_goals simp

theorem quietNext_look (s : State) : QuietNext s (execLook s) := by
  refine quietNext_of_scene ?_
  repeat' split
  all_goals simp

theorem quietNext_takeComplete (s : State) : QuietNext s (execTakeComplete s) := by
  refine quietNext ?_
  split
  · refine Quiet.ite ?_ (.refl _)
    rw [Quiet, scene_busFree]
    exact Quiet.takenWritten (.refl _)
  · exact .refl _

theorem quietNext_unknownOrder (s : State) : QuietNext s (execUnknownOrder s) := by
  refine quietNext_of_scene ?_
  repeat' split
  all_goals simp

theorem quietNext_answer (s : State) : QuietNext s (execAnswer s) := by
  refine quietNext_of_scene ?_
  dsimp only
  repeat' split
  all_goals simp

theorem quietNext_reportArrival (s : State) : QuietNext s (execReportArrival s) := by
  refine quietNext_of_scene ?_
  split <;> simp

theorem quietNext_placement (s : State) : QuietNext s (execPlacement s) := by
  refine quietNext_of_scene ?_
  dsimp only
  split <;> simp

theorem quietNext_busAccessComplete (ok : Bool) (d : List Byte) (s : State) :
    QuietNext s (execBusAccessComplete ok d s) := by
  refine quietNext ?_
  split
  · rw [Quiet, scene_busFree]
    exact Quiet.ite (Quiet.accessDone (.refl _) _ _) (quiet_of_scene (scene_accessFails _ _))
  · exact .refl _

theorem quietNext_busAccessTimeout (s : State) : QuietNext s (execBusAccessTimeout s) := by
  refine quietNext_of_scene ?_
  repeat' split
  all_goals simp

theorem quietNext_nop (s : State) : QuietNext s (execNop s) := quietNext_workOrder fun _ => quiet_of_scene rfl

theorem quietNext_engineInfo (s : State) : QuietNext s (execEngineInfo s) :=
  quietNext_workOrder fun _ => quiet_of_scene rfl

theorem quietNext_readTable (s : State) : QuietNext s (execReadTable s) := by
  refine quietNext_workOrder fun o => quiet_of_scene ?_
  dsimp only
  repeat' split
  all_goals simp

theorem quietNext_readMore (s : State) : QuietNext s (execReadMore s) := by
  refine quietNext_workOrder fun o => quiet_of_scene ?_
  dsimp only
  repeat' split
  all_goals simp

/-! ## The Frame Path and the scheduler (chapters 2 and 4) -/

theorem quietNext_setPort (s : State) : QuietNext s (execSetPort s) := by
  refine quietNext_workOrder fun o => quiet_of_scene ?_
  dsimp only
  split
  · simp
  · simp [apply_ite scene]

theorem quietNext_portStats (s : State) : QuietNext s (execPortStats s) := by
  refine quietNext_workOrder fun o => quiet_of_scene ?_
  dsimp only
  repeat' split
  all_goals simp

theorem quietNext_acceptance (p : PortId) (f : List Byte) (n : Int) (s : State) :
    QuietNext s (execAcceptance p f n s) := by
  refine quietNext_of_scene ?_
  split <;> simp

theorem quietNext_endResolution (p : PortId) (s : State) : QuietNext s (execEndResolution p s) := by
  refine quietNext_workStage fun x => ?_
  dsimp only
  split
  · split
    · simp
    · refine (scene_setIngress _ _ _).trans (scene_touchSta ?_)
      rfl
  · simp [apply_ite scene]

theorem quietNext_flowLookup (p : PortId) (s : State) : QuietNext s (execFlowLookup p s) := by
  refine quietNext_workStage fun x => ?_
  dsimp only [State.classed]
  repeat' split
  all_goals simp

theorem quietNext_gateCheck (p : PortId) (s : State) : QuietNext s (execGateCheck p s) := by
  refine quietNext_workStage fun x => ?_
  dsimp only
  repeat' split
  all_goals simp

theorem quietNext_activityByteCounting (p : PortId) (s : State) : QuietNext s (execActivityByteCounting p s) := by
  refine quietNext_workStage fun x => ?_
  rw [scene_setIngress]
  repeat' split
  all_goals simp

theorem quietNext_destinationResolution (p : PortId) (s : State) : QuietNext s (execDestinationResolution p s) := by
  refine quietNext_workStage fun x => ?_
  dsimp only
  repeat' split
  all_goals simp

theorem quietNext_enqueue (p : PortId) (s : State) : QuietNext s (execEnqueue p s) := by
  refine quietNext_workStage fun x => ?_
  split <;> simp

theorem quietNext_linkReady (p : PortId) (s : State) : QuietNext s (execLinkReady p s) := by
  refine quietNext_of_scene ?_
  dsimp only
  split <;> simp

theorem quietNext_transmitOpportunity (p : PortId) (s : State) : QuietNext s (execTransmitOpportunity p s) := by
  refine quietNext_of_scene ?_
  dsimp only
  repeat' split
  all_goals simp

theorem quietNext_transmitCompletion (p : PortId) (s : State) : QuietNext s (execTransmitCompletion p s) := by
  refine quietNext_of_scene ?_
  dsimp only
  repeat' split
  all_goals simp

theorem quietNext_addressAging (s : State) : QuietNext s (execAddressAging s) := by
  refine quietNext_of_scene ?_
  split <;> simp

theorem quietNext_rateNotice (r : Radio) (m : Mac) (n : Half) (s : State) : QuietNext s (execRateNotice r m n s) := by
  refine quietNext_of_scene ?_
  split
  · exact scene_touchSta rfl
  · rfl

/-! ## The Flow Classifier, the Station Table and the clock (chapters 3, 5 and 6) -/

theorem quietNext_flowAging (s : State) : QuietNext s (execFlowAging s) := by
  refine quietNext_of_scene ?_
  split
  · refine congrArg (Prod.mk _) (states_map (fun r => ?_) _)
    rfl
  · rfl

theorem quietNext_setRule (s : State) : QuietNext s (execSetRule s) := by
  refine quietNext_workOrder fun o => quiet_of_scene ?_
  split <;> simp

theorem quietNext_clearRule (s : State) : QuietNext s (execClearRule s) := by
  refine quietNext_workOrder fun o => quiet_of_scene ?_
  split <;> simp

theorem quietNext_setFlowTimes (s : State) : QuietNext s (execSetFlowTimes s) :=
  quietNext_workOrder fun _ => quiet_of_scene rfl

theorem quietNext_setQuiet (s : State) : QuietNext s (execSetQuiet s) :=
  quietNext_workOrder fun _ => quiet_of_scene rfl

theorem quietNext_admitStation (s : State) : QuietNext s (execAdmitStation s) := by
  refine quietNext_workOrder fun o => ?_
  dsimp only
  split
  · exact Quiet.ite (Quiet.admission (.refl _) _ _ _ _ _ _) (.refl _)
  · exact .refl _

theorem quietNext_departStation (s : State) : QuietNext s (execDepartStation s) := by
  have hdepart : ∀ i, Quiet s (s.setSta i { s.sta i with departed := true }) := fun i =>
    Quiet.touchSta (.refl _) rfl
  refine quietNext_workOrder fun o => ?_
  split
  · exact .refl _
  · next i _ =>
    split
    · exact Quiet.freeStation (.refl _) i
    · exact Quiet.freeStation (.refl _) i
    · exact hdepart i
    · exact hdepart i
    · exact hdepart i
    all_goals exact .refl _

theorem quietNext_setStation (s : State) : QuietNext s (execSetStation s) := by
  refine quietNext_workOrder fun o => quiet_of_scene ?_
  dsimp only
  split
  · split
    all_goals simp [scene_touchSta]
  · rfl

theorem quietNext_grantBonus (s : State) : QuietNext s (execGrantBonus s) := by
  refine quietNext_workOrder fun o => quiet_of_scene ?_
  dsimp only
  split <;> simp

theorem quietNext_setClock (s : State) : QuietNext s (execSetClock s) := by
  refine quietNext_workOrder fun o => quiet_of_scene ?_
  dsimp only
  repeat' split
  all_goals simp

theorem quietNext_clockInfo (s : State) : QuietNext s (execClockInfo s) :=
  quietNext_workOrder fun _ => quiet_of_scene rfl

theorem quietNext_minuteEvent (s : State) : QuietNext s (execMinuteEvent s) := by
  refine quietNext_of_scene ?_
  dsimp only
  repeat' split
  all_goals simp

theorem quietNext_unsetMinuteEvent (s : State) : QuietNext s (execUnsetMinuteEvent s) := by
  refine quietNext_of_scene ?_
  dsimp only
  split <;> simp

theorem quietNext_activeMinuteCount (s : State) : QuietNext s (execActiveMinuteCount s) := by
  refine quietNext_of_scene ?_
  split
  · refine (scene_foldl scene_recomputeSpent _ _).trans (congrArg (Prod.mk _) (states_map (fun r => ?_) _))
    unfold State.minuteOf
    split <;> rfl
  · rfl

theorem quietNext_dayRollover (s : State) : QuietNext s (execDayRollover s) := by
  refine quietNext_of_scene ?_
  split <;> simp

theorem quietNext_stateChangeNotice (s : State) : QuietNext s (execStateChangeNotice s) := by
  refine quietNext_of_scene ?_
  split <;> simp [scene_eachSta]

theorem quietNext_allowanceNotice (s : State) : QuietNext s (execAllowanceNotice s) := by
  refine quietNext_of_scene ?_
  split <;> simp [scene_eachSta]

/-! ## The Profile Engine (chapter 7) -/

theorem quietNext_evaluation (s : State) : QuietNext s (execEvaluation s) := by
  refine quietNext_of_scene ?_
  dsimp only
  split
  · rfl
  · simp [apply_ite scene]

theorem quietNext_setProfile (s : State) : QuietNext s (execSetProfile s) := by
  refine quietNext_workProfile fun o p => ?_
  dsimp only
  repeat' split
  all_goals simp

theorem quietNext_setProgram (s : State) : QuietNext s (execSetProgram s) := by
  refine quietNext_workProfile fun o p => ?_
  dsimp only
  repeat' split
  all_goals simp

theorem quietNext_clearProfile (s : State) : QuietNext s (execClearProfile s) := by
  refine quietNext_workProfile fun o p => ?_
  dsimp only
  repeat' split
  all_goals simp

theorem quietNext_pauseProfile (s : State) : QuietNext s (execPauseProfile s) :=
  quietNext_workProfile fun _ _ => scene_setPause s _ _ _ _

theorem quietNext_resumeProfile (s : State) : QuietNext s (execResumeProfile s) :=
  quietNext_workProfile fun _ _ => scene_setPause s _ _ _ _

theorem quietNext_restartProfile (s : State) : QuietNext s (execRestartProfile s) := by
  refine quietNext_workProfile fun o p => ?_
  dsimp only
  split <;> simp

theorem quietNext_raiseLock (s : State) : QuietNext s (execRaiseLock s) := by
  refine quietNext_workProfile fun o p => ?_
  dsimp only
  split <;> simp

/-! ## The Mesh Link Controller (chapter 8) -/

theorem quietNext_setNode (s : State) : QuietNext s (execSetNode s) := by
  refine quietNext_workOrder fun o => quiet_of_scene ?_
  dsimp only
  repeat' split
  all_goals simp

theorem quietNext_setPeer (s : State) : QuietNext s (execSetPeer s) := by
  refine quietNext_workOrder fun o => quiet_of_scene ?_
  dsimp only
  repeat' split
  all_goals simp

theorem quietNext_clearPeer (s : State) : QuietNext s (execClearPeer s) := by
  refine quietNext_workOrder fun o => quiet_of_scene ?_
  dsimp only
  repeat' split
  all_goals simp

theorem quietNext_meshInfo (s : State) : QuietNext s (execMeshInfo s) :=
  quietNext_workOrder fun _ => quiet_of_scene rfl

theorem quietNext_meshControlFrame (s : State) : QuietNext s (execMeshControlFrame s) := by
  refine quietNext_of_scene ?_
  split <;> simp

theorem quietNext_beaconTimer (s : State) : QuietNext s (execBeaconTimer s) := by
  refine quietNext_of_scene ?_
  split <;> simp

theorem quietNext_peerSilent (n : Node) (s : State) : QuietNext s (execPeerSilent n s) := by
  refine quietNext_of_scene ?_
  repeat' split
  all_goals rfl

theorem quietNext_presenceNotice (s : State) : QuietNext s (execPresenceNotice s) := by
  refine quietNext ?_
  split
  · exact .refl _
  · next n present rest _ =>
    have htaken : Quiet s { s with mlc := { s.mlc with presence := rest } } := quiet_of_scene rfl
    refine Quiet.ite htaken ?_
    rw [Quiet, scene_sourceGone, scene_dropServesOf]
    exact htaken.offersFail n

/-! ## The Handoff Controller (chapter 9) -/

theorem quietNext_setRoaming (s : State) : QuietNext s (execSetRoaming s) :=
  quietNext_workOrder fun _ => quiet_of_scene rfl

theorem quietNext_checkEvent (s : State) : QuietNext s (execCheckEvent s) := by
  refine quietNext (Quiet.ite (Quiet.foldl ?_ _ fun _ i hu => hu.checkStation i) (.refl _))
  exact quiet_of_scene rfl

theorem quietNext_signalQuery (s : State) : QuietNext s (execSignalQuery s) := by
  refine quietNext_workMessage fun m t h => ?_
  dsimp only
  repeat' split
  all_goals simpa [Quiet] using h

theorem quietNext_listenWindowEnd (m : Mac) (n : Node) (s : State) : QuietNext s (execListenWindowEnd m n s) := by
  refine quietNext_of_scene ?_
  repeat' split
  all_goals simp

theorem quietNext_signalReport (s : State) : QuietNext s (execSignalReport s) := by
  refine quietNext_workMessage fun m t h => ?_
  split
  · split
    · next hw _ => exact h.reportTaken hw _ _
    · exact h
  · exact h

theorem quietNext_queryDeadline (i : StaIx) (s : State) : QuietNext s (execQueryDeadline i s) := by
  refine quietNext ?_
  split
  · next hw _ => exact Quiet.ite (Quiet.closeQuery (.refl _) fun _ => by rw [hw]; exact not_calm_watched) (.refl _)
  · exact .refl _

/-- An OFFER is reserved for outside a hold alone (R142). -/
theorem not_hold_of_reserve {s : State} {id : HandoffId} {m : Mac} {i : StaIx} (h : s.offerCase id m = .reserve i) :
    s.ups.state ≠ .hold := by
  intro hh
  rw [offerCase_of_hold id m hh] at h
  cases h

theorem quietNext_offer (s : State) : QuietNext s (execOffer s) := by
  refine quietNext_workMessage fun m t h => ?_
  split
  · simpa [Quiet] using h
  · simpa [Quiet] using h
  · next i hc =>
    rw [Quiet, scene_sendTo]
    exact h.reserve (not_hold_of_reserve hc) i _ _

/-- A record found by a handoff id stands in a state asked for. -/
theorem state_of_findHandoff {s : State} {id : HandoffId} {p : StaState → Bool} {peer : Option Node} {i : StaIx}
    {h : Handoff} (e : s.findHandoff id p peer = some (i, h)) : p (s.sta i).state = true := by
  obtain ⟨⟨-, hp, -⟩, -⟩ := ((findHandoff_spec s id p peer).1 i h).1 e
  exact hp

theorem quietNext_accept (s : State) : QuietNext s (execAccept s) := by
  refine quietNext_workMessage fun m t h => ?_
  split
  · next i g hf => exact h.beginMove (by simpa using state_of_findHandoff hf) g
  · split
    · exact h
    · simpa [Quiet] using h

theorem quietNext_decline (s : State) : QuietNext s (execDecline s) := by
  refine quietNext_workMessage fun m t h => ?_
  split
  · exact h.offerFails _ _ _ _
  · exact h

theorem quietNext_retryWaitExpiry (i : StaIx) (s : State) : QuietNext s (execRetryWaitExpiry i s) := by
  have h : Quiet s s := .refl _
  refine quietNext ?_
  dsimp only
  split
  · exact h
  · refine Quiet.ite ?_ h
    split
    · exact h.offerRetry i _
    · exact h.withdrawRetry i _
    · exact h.confirmRetry i _
    · split
      · exact h.settleRetry i _ _
      · exact h
    · exact h

/-- A deadline that has passed is that of a record in the state asked for. -/
theorem state_of_pastDeadline {s : State} {i : StaIx} {g : StaState} {h : Handoff} (e : s.pastDeadline i g = some h) :
    (s.sta i).state = g := by
  simp only [State.pastDeadline] at e
  split at e
  · assumption
  · cases e

theorem quietNext_moveDeadline (i : StaIx) (s : State) : QuietNext s (execMoveDeadline i s) := by
  refine quietNext ?_
  split
  · next hp =>
    rw [Quiet, scene_sendTo]
    exact Quiet.setBarred (.refl _) (by rw [state_of_pastDeadline hp]; exact not_calm_moving)
  · exact .refl _

theorem quietNext_confirm (s : State) : QuietNext s (execConfirm s) := by
  refine quietNext_workMessage fun m t h => ?_
  split
  · exact h.completeMove _ _
  · exact h

theorem quietNext_settle (s : State) : QuietNext s (execSettle s) := by
  refine quietNext_workMessage fun m t h => ?_
  dsimp only
  split
  · rw [Quiet, scene_sendTo]
    exact h.settleTaken _ _ _ _
  · simpa [Quiet] using h

theorem quietNext_settleAck (s : State) : QuietNext s (execSettleAck s) := by
  refine quietNext_workMessage fun m t h => ?_
  split
  · exact h.touchSta rfl
  · exact h

theorem quietNext_settleWaitEnd (i : StaIx) (s : State) : QuietNext s (execSettleWaitEnd i s) := by
  refine quietNext_of_scene ?_
  split
  · exact scene_touchSta rfl
  · rfl

theorem quietNext_graceDeadline (i : StaIx) (s : State) : QuietNext s (execGraceDeadline i s) := by
  refine quietNext ?_
  split
  · exact Quiet.ite (Quiet.freeStation (.refl _) i) (.refl _)
  · exact .refl _

theorem quietNext_arrivalDeadline (i : StaIx) (s : State) : QuietNext s (execArrivalDeadline i s) := by
  refine quietNext ?_
  split
  · exact Quiet.freeStation (.refl _) i
  · exact .refl _

theorem quietNext_withdraw (s : State) : QuietNext s (execWithdraw s) := by
  refine quietNext_workMessage fun m t h => ?_
  split
  · rw [Quiet, scene_sendTo]
    exact h.freeStation _
  · simpa [Quiet] using h

theorem quietNext_withdrawAck (s : State) : QuietNext s (execWithdrawAck s) := by
  refine quietNext_workMessage fun m t h => ?_
  split
  · exact h.returnStation _ _ _
  · exact h

/-- A forced handoff begins its offer outside a hold (R150, R151). -/
theorem quietNext_forceHandoff (s : State) : QuietNext s (execForceHandoff s) := by
  refine quietNext_workOrder fun o => ?_
  dsimp only
  split
  · next i n _ _ =>
    split
    · exact .refl _
    · next hfree =>
      refine Quiet.ite ?_ (.refl _)
      refine Quiet.beginOffer (t := s.mark o.id .working) (.refl _) (fun hh => ?_) n
      exact absurd ((forceRefused_iff s i n).2 (.inr (.inl hh))) hfree
  · exact .refl _

/-! ## The flash and the stager (chapter 10) -/

theorem quietNext_slotRecordCheck (s : State) : QuietNext s (execSlotRecordCheck s) := by
  refine quietNext_of_scene ?_
  split <;> simp

theorem quietNext_flashOperationComplete (d : List Byte) (s : State) :
    QuietNext s (execFlashOperationComplete d s) := by
  refine quietNext ?_
  split
  · rw [Quiet, scene_opEnds]
    exact Quiet.flashDone (.refl _) _ _ _
  · refine Quiet.ite (quiet_of_scene (scene_startFlash _)) ?_
    split <;> exact .refl _

theorem quietNext_flashTimeout (s : State) : QuietNext s (execFlashTimeout s) := by
  refine quietNext ?_
  split
  · refine Quiet.ite ?_ (.refl _)
    rw [Quiet, scene_opEnds]
    refine Quiet.flashDone ?_ _ _ _
    exact quiet_of_scene rfl
  · exact .refl _

theorem quietNext_beginStaging (s : State) : QuietNext s (execBeginStaging s) := by
  refine quietNext_workStaging fun o => ?_
  repeat' split
  all_goals simp

theorem quietNext_stageChunk (s : State) : QuietNext s (execStageChunk s) := by
  refine quietNext_workStaging fun o => ?_
  dsimp only
  repeat' split
  all_goals simp

theorem quietNext_resumeStaging (s : State) : QuietNext s (execResumeStaging s) := by
  refine quietNext_workStaging fun o => ?_
  repeat' split
  all_goals simp

theorem quietNext_cancelStaging (s : State) : QuietNext s (execCancelStaging s) := by
  have h : Quiet s s := .refl _
  refine quietNext (Quiet.ite ?_ h)
  split
  · refine Quiet.ite ?_ h
    split
    · exact h.cancelJoins _
    all_goals exact h
  · exact h

theorem quietNext_fetchFromPeers (s : State) : QuietNext s (execFetchFromPeers s) := by
  refine quietNext_workStager fun o => quiet_of_scene ?_
  repeat' split
  all_goals simp

theorem quietNext_batchDeadline (s : State) : QuietNext s (execBatchDeadline s) := by
  refine quietNext_of_scene ?_
  repeat' split
  all_goals simp

theorem quietNext_selectionRetry (s : State) : QuietNext s (execSelectionRetry s) := by
  refine quietNext_of_scene ?_
  repeat' split
  all_goals simp

theorem quietNext_chunkData (s : State) : QuietNext s (execChunkData s) := by
  refine quietNext_workChunkMessage fun m t => ?_
  dsimp only
  repeat' split
  all_goals simp

theorem quietNext_assemblyTimeout (b : Fin 4) (s : State) : QuietNext s (execAssemblyTimeout b s) := by
  refine quietNext_of_scene ?_
  repeat' split
  all_goals simp

theorem quietNext_chunkNone (s : State) : QuietNext s (execChunkNone s) := by
  refine quietNext_workChunkMessage fun m t => ?_
  repeat' split
  all_goals simp

theorem quietNext_chunkWant (s : State) : QuietNext s (execChunkWant s) :=
  quietNext_workChunkMessage fun m t => by simp

theorem quietNext_serveStart (s : State) : QuietNext s (execServeStart s) := by
  refine quietNext_of_scene ?_
  dsimp only
  repeat' split
  all_goals simp

theorem quietNext_setUpdateWindow (s : State) : QuietNext s (execSetUpdateWindow s) := by
  refine quietNext_workStager fun o => quiet_of_scene ?_
  dsimp only
  split <;> simp

/-- The states that bar an install (R164) and WATCHED are the ones a hold does not permit. -/
theorem calm_iff (g : StaState) : Calm g ↔ g.bars = false ∧ g ≠ .watched := by
  cases g <;> simp [Calm, StaState.bars]

theorem not_bars_of_ready {s : State} (h : InstallReady s) (i : StaIx) : (s.sta i).state.bars = false := by
  obtain ⟨-, -, -, -, hmoving⟩ := h
  exact Bool.eq_false_iff.2 fun hb => hmoving ((moving_iff s).1 (any_toList_iff.2 ⟨i, hb⟩))

theorem calm_unwatched {r : Station} (h : r.state.bars = false) : Calm r.unwatched.state := by
  unfold Station.unwatched
  split
  · exact calm_active
  · next hw => exact (calm_iff _).2 ⟨h, hw⟩

/-- A grant asks that no record bars the install, and makes every WATCHED one ACTIVE (R151, R164). -/
theorem holdInv_grantInstall {s : State} (h : InstallReady s) : HoldInv s.grantInstall := by
  refine (holdInv_iff _).2 fun _ i => ?_
  have hsta : s.grantInstall.sta i = (s.sta i).unwatched := get_map _ _ _
  rw [scene_snd, hsta]
  exact calm_unwatched (not_bars_of_ready h i)

/-- The one command that begins a hold. -/
theorem holdInv_requestInstall {s t : State} (hs : HoldInv s) (h : execRequestInstall s = .next t) : HoldInv t := by
  obtain rfl := Host.Outcome.next.inj h
  split
  · split
    · dsimp only
      split
      · exact hs
      · split
        · exact hs
        · next hd => exact holdInv_grantInstall (Classical.not_not.1 (mt (deferrals_iff s).2 hd))
    · exact hs
  · exact hs

theorem quietNext_holdMinuteCount (s : State) : QuietNext s (execHoldMinuteCount s) := by
  have h : Quiet s s := .refl _
  refine quietNext ?_
  split
  · exact h
  · exact Quiet.ite (Quiet.ite (quiet_endHold s _ _) h) h

theorem quietNext_commitImage (s : State) : QuietNext s (execCommitImage s) := by
  refine quietNext_workStager fun o => quiet_of_scene ?_
  split <;> simp

theorem quietNext_cancelInstall (s : State) : QuietNext s (execCancelInstall s) := by
  refine quietNext_workStager fun o => Quiet.ite ?_ (.refl _)
  exact quiet_endHold s s .cancelled

theorem quietNext_confirmImage (s : State) : QuietNext s (execConfirmImage s) := by
  refine quietNext_workStager fun o => quiet_of_scene ?_
  split <;> simp

theorem quietNext_readFlash (s : State) : QuietNext s (execReadFlash s) := by
  refine quietNext_of_scene ?_
  dsimp only
  repeat' split
  all_goals simp

/-! ## Every step -/

/-- REQUEST_INSTALL apart, a command leaves the rule undisturbed. -/
theorem quietNext_exec {c : Instr} (hc : c ≠ .requestInstall) (s : State) : QuietNext s (exec c s) := by
  cases c with
  | powerOn => exact quietNext_powerOn s
  | run n => exact quietNext_of_scene (scene_controlRun s n)
  | reset => exact quietNext (quiet_controlReset s)
  | nudge => exact quietNext_of_scene (scene_causeLook s)
  | eventsWrite v => exact quietNext_of_scene rfl
  | areaSizeWrite v => exact quietNext_of_scene rfl
  | registerWrite offset w v => exact quietNext_registerWrite offset w v s
  | resetDone => exact quietNext_resetDone s
  | scanTimerExpiry => exact quietNext_scanTimerExpiry s
  | look => exact quietNext_look s
  | takeComplete => exact quietNext_takeComplete s
  | unknownOrder => exact quietNext_unknownOrder s
  | answer => exact quietNext_answer s
  | reportArrival => exact quietNext_reportArrival s
  | placement => exact quietNext_placement s
  | busAccessComplete ok d => exact quietNext_busAccessComplete ok d s
  | busAccessTimeout => exact quietNext_busAccessTimeout s
  | nop => exact quietNext_nop s
  | engineInfo => exact quietNext_engineInfo s
  | readTable => exact quietNext_readTable s
  | readMore => exact quietNext_readMore s
  | setPort => exact quietNext_setPort s
  | portStats => exact quietNext_portStats s
  | acceptance p f n => exact quietNext_acceptance p f n s
  | endResolution p => exact quietNext_endResolution p s
  | flowLookup p => exact quietNext_flowLookup p s
  | gateCheck p => exact quietNext_gateCheck p s
  | activityByteCounting p => exact quietNext_activityByteCounting p s
  | destinationResolution p => exact quietNext_destinationResolution p s
  | enqueue p => exact quietNext_enqueue p s
  | rateNotice r m n => exact quietNext_rateNotice r m n s
  | overheardSample m n => exact quietNext_of_scene rfl
  | linkReady p => exact quietNext_linkReady p s
  | transmitOpportunity p => exact quietNext_transmitOpportunity p s
  | transmitCompletion p => exact quietNext_transmitCompletion p s
  | addressAging => exact quietNext_addressAging s
  | flowAging => exact quietNext_flowAging s
  | setRule => exact quietNext_setRule s
  | clearRule => exact quietNext_clearRule s
  | setFlowTimes => exact quietNext_setFlowTimes s
  | setQuiet => exact quietNext_setQuiet s
  | admitStation => exact quietNext_admitStation s
  | departStation => exact quietNext_departStation s
  | setStation => exact quietNext_setStation s
  | grantBonus => exact quietNext_grantBonus s
  | setClock => exact quietNext_setClock s
  | clockInfo => exact quietNext_clockInfo s
  | minuteEvent => exact quietNext_minuteEvent s
  | unsetMinuteEvent => exact quietNext_unsetMinuteEvent s
  | activeMinuteCount => exact quietNext_activeMinuteCount s
  | dayRollover => exact quietNext_dayRollover s
  | stateChangeNotice => exact quietNext_stateChangeNotice s
  | allowanceNotice => exact quietNext_allowanceNotice s
  | evaluation => exact quietNext_evaluation s
  | setProfile => exact quietNext_setProfile s
  | setProgram => exact quietNext_setProgram s
  | clearProfile => exact quietNext_clearProfile s
  | pauseProfile => exact quietNext_pauseProfile s
  | resumeProfile => exact quietNext_resumeProfile s
  | restartProfile => exact quietNext_restartProfile s
  | raiseLock => exact quietNext_raiseLock s
  | setNode => exact quietNext_setNode s
  | setPeer => exact quietNext_setPeer s
  | clearPeer => exact quietNext_clearPeer s
  | meshInfo => exact quietNext_meshInfo s
  | meshControlFrame => exact quietNext_meshControlFrame s
  | beaconTimer => exact quietNext_beaconTimer s
  | peerSilent n => exact quietNext_peerSilent n s
  | presenceNotice => exact quietNext_presenceNotice s
  | setRoaming => exact quietNext_setRoaming s
  | checkEvent => exact quietNext_checkEvent s
  | signalQuery => exact quietNext_signalQuery s
  | listenWindowEnd m n => exact quietNext_listenWindowEnd m n s
  | signalReport => exact quietNext_signalReport s
  | queryDeadline i => exact quietNext_queryDeadline i s
  | offer => exact quietNext_offer s
  | accept => exact quietNext_accept s
  | decline => exact quietNext_decline s
  | retryWaitExpiry i => exact quietNext_retryWaitExpiry i s
  | moveDeadline i => exact quietNext_moveDeadline i s
  | confirm => exact quietNext_confirm s
  | settle => exact quietNext_settle s
  | settleAck => exact quietNext_settleAck s
  | settleWaitEnd i => exact quietNext_settleWaitEnd i s
  | graceDeadline i => exact quietNext_graceDeadline i s
  | arrivalDeadline i => exact quietNext_arrivalDeadline i s
  | withdraw => exact quietNext_withdraw s
  | withdrawAck => exact quietNext_withdrawAck s
  | forceHandoff => exact quietNext_forceHandoff s
  | slotRecordCheck => exact quietNext_slotRecordCheck s
  | flashOperationComplete d => exact quietNext_flashOperationComplete d s
  | flashTimeout => exact quietNext_flashTimeout s
  | beginStaging => exact quietNext_beginStaging s
  | stageChunk => exact quietNext_stageChunk s
  | resumeStaging => exact quietNext_resumeStaging s
  | cancelStaging => exact quietNext_cancelStaging s
  | fetchFromPeers => exact quietNext_fetchFromPeers s
  | batchDeadline => exact quietNext_batchDeadline s
  | selectionRetry => exact quietNext_selectionRetry s
  | chunkData => exact quietNext_chunkData s
  | assemblyTimeout b => exact quietNext_assemblyTimeout b s
  | chunkNone => exact quietNext_chunkNone s
  | chunkWant => exact quietNext_chunkWant s
  | serveStart => exact quietNext_serveStart s
  | setUpdateWindow => exact quietNext_setUpdateWindow s
  | requestInstall => exact absurd rfl hc
  | holdMinuteCount => exact quietNext_holdMinuteCount s
  | commitImage => exact quietNext_commitImage s
  | cancelInstall => exact quietNext_cancelInstall s
  | confirmImage => exact quietNext_confirmImage s
  | readFlash => exact quietNext_readFlash s

theorem holdInv_exec {c : Instr} {s t : State} (hs : HoldInv s) (h : exec c s = .next t) : HoldInv t := by
  by_cases hc : c = .requestInstall
  · subst hc
    exact holdInv_requestInstall hs h
  · exact (quietNext_exec hc s t h).holdInv hs

/-- Settles O7: a record leaves the states a hold permits only in a command that asks for no hold or finds the record in
a state that no hold permits; and a hold begins only where no record bars it. -/
theorem everyStepKeepsTheInstallHoldQuiet : Obligations.EveryStepKeepsTheInstallHoldQuiet := by
  intro s t hs h
  unfold step at h
  split at h
  · next c rest _ =>
    have hpop : HoldInv { s with pending := rest } := hs
    exact holdInv_exec hpop h
  · unfold idle at h
    split at h
    · exact holdInv_exec hs h
    · exact (quietNext_of_scene (scene_tick s) t h).holdInv hs

end Sys2Proof.Machine.RoomHandoff
end

section
/-!
PROOFS. What the step does when a command is waiting: O1.
-/

namespace Sys2Proof.Machine.StepQueue

open Sys2Proof Sys2Proof.Machine

/-- Settles O1: the step splits on the queue alone, so a queue known to have a front selects the arm that runs it. -/
theorem stepRunsTheFrontCommand : Obligations.StepRunsTheFrontCommand := by
  intro c rest s hqueue
  unfold step
  rw [hqueue]

end Sys2Proof.Machine.StepQueue
end
